-- ==== Sys2Proof/Word.lean ====
section
/-! DEFINITION. The bit vectors of the 65C816: bytes on the bus, words in the registers, addresses. -/

namespace Sys2Proof

/-- A datum of the 8-bit bus (20_memory.md R70). -/
abbrev Byte := BitVec 8

/-- A 16-bit register, or an offset inside a bank (10_state.md R20, 20_memory.md R70). -/
abbrev Word := BitVec 16

/-- A 24-bit address, `bank:offset` (20_memory.md R70). -/
abbrev Addr := BitVec 24

end Sys2Proof
end

