-- ==== Sys2Proof/Machine/Bits.lean ====
section
/-! DEFINITION. The parts of words and addresses (00_scope.md R6, R7) and the two extensions (R8). -/

namespace Sys2Proof.Machine

/-- `v[7:0]`, written `A.l`, `PC.l` and so on (00_scope.md R7). -/
def lowByte (w : Word) : Byte := w.extractLsb' 0 8

/-- `v[15:8]`, written `A.h`, `PC.h` and so on (00_scope.md R7). -/
def highByte (w : Word) : Byte := w.extractLsb' 8 8

/-- `{h, l}`, the more significant byte first (00_scope.md R6). -/
def joinWord (h l : Byte) : Word := h ++ l

/-- The bank of an address, bits 23 to 16 (00_scope.md R6). -/
def bankOf (a : Addr) : Byte := a.extractLsb' 16 8

/-- The offset of an address, bits 15 to 0 (00_scope.md R6). -/
def offsetOf (a : Addr) : Word := a.extractLsb' 0 16

/-- `bank:offset` (00_scope.md R6). -/
def joinAddr (bank : Byte) (offset : Word) : Addr := bank ++ offset

/-- `zext_16` of a byte (00_scope.md R8). -/
def zeroExt (b : Byte) : Word := b.setWidth 16

/-- `sext_16` of a byte (00_scope.md R8). -/
def signExt (b : Byte) : Word := b.signExtend 16

/-- A 16-bit index widened to an address, unsigned (40_addressing.md R142). -/
def indexAddr (w : Word) : Addr := w.setWidth 24

end Sys2Proof.Machine
end

