-- ==== Sys2Proof/Config.lean ====
section
/-! DEFINITION. What an implementation fixes: the parameters of 00_scope.md R5, the kinds of page an
address may resolve to (20_memory.md R77, R78), and the free answers of the MMIO collaborator (R86). -/

namespace Sys2Proof

/-- The access kind every bus access carries (20_memory.md R71). The core never issues `noOp`; it is
for host tools that peek memory without side effects (R72). -/
inductive AccessKind
  | opcodeFetch | data | vectorPull | stack | noOp
deriving DecidableEq, Repr

/-- Reads and writes are resolved apart (20_memory.md R77). -/
inductive Dir
  | read | write
deriving DecidableEq, Repr

/-- The two slow-RAM banks, 0xE0 and 0xE1 (20_memory.md R81). -/
inductive SlowBank
  | e0 | e1
deriving DecidableEq, Repr

/-- One 64 KiB bank of storage: an entry of the fast-RAM table, of the slow-RAM table, or a bank of
the ROM image (20_memory.md R78). -/
inductive StoreBank
  | fast (bank : Byte)
  | slow (bank : SlowBank)
  | rom (bank : Byte)
deriving DecidableEq, Repr

/-- A page of storage: 256 bytes of one bank. -/
structure Page where
  store : StoreBank
  page : Byte
deriving DecidableEq, Repr

/-- The kind of a bank descriptor, with the reference the kind needs (20_memory.md R78). -/
inductive BankKind
  | fastRam (bank : Byte)
  | slowRam (bank : SlowBank)
  | rom (bank : Byte)
  | empty
  | ioGate
deriving DecidableEq, Repr

/-- An entry of the Bank Map: kind, reference and read-only flag (20_memory.md R78). -/
structure BankDesc where
  kind : BankKind
  readOnly : Bool
deriving DecidableEq, Repr

/-- What one page of the address space resolves to (20_memory.md R77): a page of storage with its
read-only flag, the Empty page, or the I/O gate. `shadow` is the second page a write is delivered to
where the platform shadows the page (R84; DEDUCED, log 11). -/
inductive Target
  | mem (page : Page) (readOnly : Bool) (shadow : Option Page)
  | empty
  | io
deriving DecidableEq, Repr

/-- Position of the break bit in the pushed status byte, `BREAK_BIT` (60_exceptions.md R392). -/
inductive BreakBit
  | bit4 | bit5
deriving DecidableEq, Repr

/-- `JMP_IND_PAGE_WRAP` (40_addressing.md R165). -/
inductive JmpIndWrap
  | never | emulationOnly | always
deriving DecidableEq, Repr

/-- `DECIMAL_V` (42_alu.md R214). -/
inductive DecimalV
  | final | preHighAdjust
deriving DecidableEq, Repr

/-- The mnemonics of the instructions that use the stack: what `EMU_STACK_QUIRK_SET` may hold
(45_stack.md R283). -/
inductive StackUser
  | pha | pla | phx | plx | phy | ply | php | plp | phb | plb | phd | pld | phk
  | pea | pei | per | jsr | jsl | rts | rtl | brk | cop | rti
deriving DecidableEq, Repr

/-- The parameters of 00_scope.md R5 that a step consults. They are carried in the state and no step
changes them, so that a statement about every state is one about every value of them (log 10). -/
structure Params where
  /-- `FAST_RAM_BANKS`, 4 to 256 (20_memory.md R82). -/
  fastRamBanks : Nat
  /-- `BREAK_BIT` (60_exceptions.md R392). -/
  breakBit : BreakBit
  /-- `WAI_WAKE_ON_MASKED_IRQ` (60_exceptions.md R411). -/
  waiWakeOnMaskedIrq : Bool
  /-- `JMP_IND_PAGE_WRAP` (40_addressing.md R165). -/
  jmpIndPageWrap : JmpIndWrap
  /-- `DATA16_CROSSES_BANK` (40_addressing.md R146). -/
  data16CrossesBank : Bool
  /-- `EMU_STACK_QUIRK_SET` (45_stack.md R283). -/
  emuStackQuirkSet : List StackUser
  /-- `DECIMAL_V` (42_alu.md R214). -/
  decimalV : DecimalV
  /-- `DECIMAL_PENALTY`, one cycle where true (70_reset_and_hazards.md R466). -/
  decimalPenalty : Bool
  /-- `RESET_HOLD_COUNT` (70_reset_and_hazards.md R436). -/
  resetHoldCount : Option Nat
deriving DecidableEq, Repr

/-- The defaults of 00_scope.md R5. `FAST_RAM_BANKS` has none: 256 is a DESIGN CHOICE (log 6). -/
def Config.defaults : Params where
  fastRamBanks := 256
  breakBit := .bit4
  waiWakeOnMaskedIrq := true
  jmpIndPageWrap := .emulationOnly
  data16CrossesBank := true
  emuStackQuirkSet := [.phd, .pld, .jsl, .rtl]
  decimalV := .final
  decimalPenalty := false
  resetHoldCount := none

/-- One access to an I/O page, as the MMIO collaborator receives it (20_memory.md R86). -/
inductive IoAccess
  | read (bank : Byte) (offset : Word) (kind : AccessKind)
  | write (bank : Byte) (offset : Word) (value : Byte)
deriving DecidableEq, Repr

/-- A change of one entry of a page mapping; `none` makes the page follow its bank's descriptor. -/
structure PageEdit where
  dir : Dir
  bank : Byte
  page : Byte
  target : Option Target
deriving DecidableEq, Repr

/-- What the collaborator and `refresh_bank_map` change during one I/O access: the interrupt requests
(60_exceptions.md R388), the speed gate (70_reset_and_hazards.md R461), entries of the Bank Map and of
the page mappings (20_memory.md R85, R87). `none` leaves a line as it is. -/
structure IoEffect where
  irqbIn : Option Bool
  nmiPulse : Bool
  speedGate : Option Bool
  bankEdits : List (Byte × BankDesc)
  pageEdits : List PageEdit
deriving DecidableEq, Repr, Inhabited

/-- FREE VALUE (log 9): the byte `mmio_read` returns at the `n`-th I/O access (20_memory.md R86). -/
opaque Config.mmioRead (n : Nat) (bank : Byte) (offset : Word) (kind : AccessKind) : Byte

/-- FREE VALUE (log 9): what the `n`-th I/O access changes (20_memory.md R85, R86, R87). -/
opaque Config.mmioEffect (n : Nat) (access : IoAccess) : IoEffect

end Sys2Proof
end

