-- ==== Sys2Proof/Machine/State.lean ====
section
/-! DEFINITION. The state of the machine, as plain data: the register file (10_state.md R20 to R38), the
pin-like flags and the coarse state (R39 to R44), the clock (R45), the last-fetch and trace records (R46), the
memory and its map (20_memory.md R77, R78, R84), and the parameters of 00_scope.md R5. -/

namespace Sys2Proof.Machine

/-- The processor status P by its eight named bits (10_state.md R29, R30). Every bit of the byte has a name, so
the byte that is pushed and pulled (`Status.toByte`, `Status.ofByte`) loses nothing. -/
structure Status where
  /-- Carry, bit 0. -/
  c : Bool
  /-- Zero, bit 1. -/
  z : Bool
  /-- IRQ disable, bit 2. -/
  i : Bool
  /-- Decimal mode, bit 3. -/
  d : Bool
  /-- 8-bit index registers, bit 4. -/
  x : Bool
  /-- 8-bit accumulator and memory, bit 5. -/
  m : Bool
  /-- Overflow, bit 6. -/
  v : Bool
  /-- Negative, bit 7. -/
  n : Bool
deriving DecidableEq, Repr

/-- The register file and the emulation bit (10_state.md R20 to R38). -/
structure Regs where
  /-- The accumulator A (R21). -/
  a : Word
  /-- The index register X (R22). -/
  x : Word
  /-- The index register Y (R22). -/
  y : Word
  /-- The stack pointer S (R23). -/
  s : Word
  /-- The direct-page register D (R24). -/
  d : Word
  /-- The program bank PBR (R25). -/
  pbr : Byte
  /-- The data bank DBR (R26). -/
  dbr : Byte
  /-- The program counter PC (R27). -/
  pc : Word
  /-- The processor status P (R29). -/
  p : Status
  /-- The emulation bit E (R35). -/
  e : Bool
deriving DecidableEq, Repr

/-- The coarse state variable (10_state.md R44). -/
inductive Coarse
  | reset | irq | nmi | execute
deriving DecidableEq, Repr

/-- The pin-like flags (10_state.md R39 to R43), the NMI latch (R41), the coarse state (R44), and the host's
reset hold countdown (70_reset_and_hazards.md R436). -/
structure Pins where
  /-- Active-low reset: false means asserted (R39). -/
  resbIn : Bool
  /-- Active-low interrupt request: false means requested (R40). -/
  irqbIn : Bool
  /-- The latched NMI edge (R41). -/
  nmiPending : Bool
  /-- False while WAI waits (R42). -/
  readyOut : Bool
  /-- False after STP (R43). -/
  enabled : Bool
  coarse : Coarse
  /-- Steps until an asserted reset releases itself; `none` where the host drives the pin. -/
  resetHold : Option Nat
deriving DecidableEq, Repr

/-- The clock (10_state.md R45, 70_reset_and_hazards.md R460) and the speed gate (R461). -/
structure Clock where
  /-- The timestamp, unbounded: its overflow is not considered (R460, log 7). -/
  ts : Nat
  fastStep : Nat
  slowStep : Nat
  /-- Bus and internal cycles so far. -/
  cyclesSpent : Nat
  /-- The environment's slow-speed condition. -/
  speedGate : Bool
deriving DecidableEq, Repr

/-- The stores behind the bus (20_memory.md R78): fast RAM and the ROM image by 24-bit address, slow RAM under
the addresses of banks 0xE0 and 0xE1. Each lists the bytes that are not 0x00, addresses strictly rising. -/
structure Memory where
  fast : List Host.Cell
  slow : List Host.Cell
  rom : List Host.Cell
deriving DecidableEq, Repr

/-- The memory, and the map that says what an address resolves to (20_memory.md R77). A bank that `bankMap` does
not list has its initial descriptor (log 6), a page that `readPages` or `writePages` does not list follows its
bank's descriptor (log 11); keys strictly rise, a page's key being `bank * 256 + page`. -/
structure Bus where
  mem : Memory
  bankMap : List (Nat × BankDesc)
  readPages : List (Nat × Target)
  writePages : List (Nat × Target)
  /-- The MODEL's own field: how many I/O accesses have been made, the index of the collaborator's next free
  answer (log 9). -/
  ioCount : Nat
deriving DecidableEq, Repr

/-- The instruction trace record (10_state.md R46). -/
structure TraceRecord where
  opcode : Byte
  bank : Byte
  pc : Word
  operands : List Byte
  cycles : Nat
deriving DecidableEq, Repr

/-- The machine's state. -/
structure State where
  regs : Regs
  pins : Pins
  clock : Clock
  bus : Bus
  /-- The last-fetch record, bank (10_state.md R46). -/
  fetchPbr : Byte
  /-- The last-fetch record, offset (10_state.md R46). -/
  fetchPc : Word
  /-- The trace record of the last instruction; `none` before the first (10_state.md R46). -/
  trace : Option TraceRecord
  params : Params
deriving DecidableEq, Repr

/-- Why the machine stops: never. "Nothing on this hardware is treated as `fault` or `stuck`"
(93_implementation_defined.md, Part 1): there is no constructor, so no step and no meaning can fault. -/
inductive Fault
deriving DecidableEq, Repr

/-- Why the model declines an instruction. -/
inductive Refusal
  /-- The instruction has no meaning yet. Raised only by an arm of `exec`; no arm of this model raises it. Safe. -/
  | notModelled (mnemonic : String)
deriving DecidableEq, Repr

/-- P after reset: M = X = I = 1, D = 0 (10_state.md R49); C, Z, V, N DESIGN CHOICE 0 (log 3). -/
def Status.reset : Status where
  c := false
  z := false
  i := true
  d := false
  x := true
  m := true
  v := false
  n := false

/-- The register file after reset (10_state.md R49): A, X.l, Y.l DESIGN CHOICE 0 (log 1), S.l DESIGN CHOICE 0xFF
(log 2), PC the reset vector of the memory of reset (log 4). -/
def Regs.reset : Regs where
  a := 0x0000
  x := 0x0000
  y := 0x0000
  s := 0x01FF
  d := 0x0000
  pbr := 0x00
  dbr := 0x00
  pc := 0x0000
  p := Status.reset
  e := true

/-- The machine after the reset sequence (10_state.md R49, 70_reset_and_hazards.md R433): no input requests
anything, the clock has counted the sequence's nine cycles at one unit each (log 7), no byte of memory is listed
(log 5), the map is the flat platform (log 6). -/
def State.reset : State where
  regs := Regs.reset
  pins :=
    { resbIn := true, irqbIn := true, nmiPending := false, readyOut := true, enabled := true,
      coarse := .execute, resetHold := none }
  clock := { ts := 9, fastStep := 1, slowStep := 2, cyclesSpent := 9, speedGate := false }
  bus :=
    { mem := { fast := [], slow := [], rom := [] }, bankMap := [], readPages := [], writePages := [],
      ioCount := 0 }
  fetchPbr := 0x00
  fetchPc := 0x0000
  trace := none
  params := Config.defaults

end Sys2Proof.Machine
end

