-- ==== Sys2Proof/Machine/Flags.lean ====
section
/-! DEFINITION. The status byte (10_state.md R30), the flag law (R33), and every computation of the ALU with the
flags it gives (42_alu.md, 43_rmw.md), at any width. -/

namespace Sys2Proof.Machine

/-- P as the byte that is pushed (10_state.md R30). -/
def Status.toByte (p : Status) : Byte :=
  BitVec.ofBool p.n ++ BitVec.ofBool p.v ++ BitVec.ofBool p.m ++ BitVec.ofBool p.x ++
    BitVec.ofBool p.d ++ BitVec.ofBool p.i ++ BitVec.ofBool p.z ++ BitVec.ofBool p.c

/-- P from a pulled byte (10_state.md R30). -/
def Status.ofByte (b : Byte) : Status where
  c := b.getLsbD 0
  z := b.getLsbD 1
  i := b.getLsbD 2
  d := b.getLsbD 3
  x := b.getLsbD 4
  m := b.getLsbD 5
  v := b.getLsbD 6
  n := b.getLsbD 7

/-- `SetNZ` on a result of width `w` (10_state.md R33). -/
def Status.setNZ {w : Nat} (p : Status) (r : BitVec w) : Status :=
  { p with z := r == 0#w, n := r.msb }

/-- A result with the carry and the overflow that go with it. -/
structure Sum (w : Nat) where
  result : BitVec w
  carry : Bool
  overflow : Bool

/-- V of an addition: the operands have one sign, the result the other (42_alu.md R212). -/
def addOverflow {w : Nat} (a m r : BitVec w) : Bool := ((a ^^^ r) &&& (m ^^^ r)).msb

/-- V of a subtraction: the operands differ in sign, the result from the first (42_alu.md R216). -/
def subOverflow {w : Nat} (a m r : BitVec w) : Bool := ((a ^^^ m) &&& (a ^^^ r)).msb

/-- `AddBinary` (42_alu.md R212). -/
def addBinary {w : Nat} (a m : BitVec w) (c : Bool) : Sum w :=
  let s := a.toNat + m.toNat + c.toNat
  let r := BitVec.ofNat w s
  { result := r, carry := decide (2 ^ w ≤ s), overflow := addOverflow a m r }

/-- `SubBinary`, spelled out (42_alu.md R216). -/
def subBinary {w : Nat} (a m : BitVec w) (c : Bool) : Sum w :=
  let s := a.toNat + (2 ^ w - 1 - m.toNat) + c.toNat
  let r := BitVec.ofNat w s
  { result := r, carry := decide (2 ^ w ≤ s), overflow := subOverflow a m r }

/-- The digits of a decimal result: as adjusted, with the top digit left unadjusted (the `r'` of 42_alu.md R214),
and the carry out. -/
structure Digits where
  adjusted : Nat
  topUnadjusted : Nat
  carry : Nat

/-- The loop of `AddDecimal` over `n` digits, the least significant first (42_alu.md R213). -/
def addDigits : (n : Nat) → (a m k : Nat) → Digits
  | 0, _, _, k => { adjusted := 0, topUnadjusted := 0, carry := k }
  | n + 1, a, m, k =>
    let s := a % 16 + m % 16 + k
    let t := if 9 < s then s + 6 else s
    let rest := addDigits n (a / 16) (m / 16) (if 15 < t then 1 else 0)
    { adjusted := t % 16 + 16 * rest.adjusted
      topUnadjusted := (if n = 0 then s % 16 else t % 16) + 16 * rest.topUnadjusted
      carry := rest.carry }

/-- The loop of `SubDecimal` over `n` digits, the least significant first (42_alu.md R217). Where a digit borrows,
`s - 6` modulo 16 is `s + 10` modulo 16. -/
def subDigits : (n : Nat) → (a m k : Nat) → Digits
  | 0, _, _, k => { adjusted := 0, topUnadjusted := 0, carry := k }
  | n + 1, a, m, k =>
    let s := a % 16 + (15 - m % 16) + k
    let rest := subDigits n (a / 16) (m / 16) (if 15 < s then 1 else 0)
    { adjusted := (if 15 < s then s else s + 10) % 16 + 16 * rest.adjusted
      topUnadjusted := (if 15 < s then s else if n = 0 then s else s + 10) % 16 + 16 * rest.topUnadjusted
      carry := rest.carry }

/-- The result V is computed from (42_alu.md R214). -/
def Digits.forV (dv : DecimalV) (g : Digits) : Nat :=
  match dv with
  | .final => g.adjusted
  | .preHighAdjust => g.topUnadjusted

/-- `AddDecimal` (42_alu.md R213, R214). -/
def addDecimal {w : Nat} (dv : DecimalV) (a m : BitVec w) (c : Bool) : Sum w :=
  let g := addDigits (w / 4) a.toNat m.toNat c.toNat
  { result := BitVec.ofNat w g.adjusted, carry := g.carry == 1,
    overflow := addOverflow a m (BitVec.ofNat w (g.forV dv)) }

/-- `SubDecimal` (42_alu.md R217, R214). -/
def subDecimal {w : Nat} (dv : DecimalV) (a m : BitVec w) (c : Bool) : Sum w :=
  let g := subDigits (w / 4) a.toNat m.toNat c.toNat
  { result := BitVec.ofNat w g.adjusted, carry := g.carry == 1,
    overflow := subOverflow a m (BitVec.ofNat w (g.forV dv)) }

/-- P after a sum: C, V, N, Z. -/
def Status.setSum {w : Nat} (p : Status) (r : Sum w) : Status :=
  { p with c := r.carry, v := r.overflow }.setNZ r.result

/-- An operation of the ALU at a width chosen at run time: the register operand, the memory operand and P give the
result and the new P. -/
abbrev AluOp := (w : Nat) → BitVec w → BitVec w → Status → BitVec w × Status

/-- ADC (42_alu.md R211). -/
def aluAdc (dv : DecimalV) : AluOp := fun _ a m p =>
  let r := if p.d then addDecimal dv a m p.c else addBinary a m p.c
  (r.result, p.setSum r)

/-- SBC (42_alu.md R215). -/
def aluSbc (dv : DecimalV) : AluOp := fun _ a m p =>
  let r := if p.d then subDecimal dv a m p.c else subBinary a m p.c
  (r.result, p.setSum r)

/-- AND (42_alu.md R218). -/
def aluAnd : AluOp := fun _ a m p => (a &&& m, p.setNZ (a &&& m))

/-- ORA (42_alu.md R219). -/
def aluOra : AluOp := fun _ a m p => (a ||| m, p.setNZ (a ||| m))

/-- EOR (42_alu.md R220). -/
def aluEor : AluOp := fun _ a m p => (a ^^^ m, p.setNZ (a ^^^ m))

/-- The flags of CMP, CPX and CPY: C from the unsigned comparison, N and Z from the difference (42_alu.md R221). -/
def Status.compare {w : Nat} (p : Status) (a m : BitVec w) : Status :=
  { p with c := decide (m.toNat ≤ a.toNat) }.setNZ (a - m)

/-- BIT on memory: Z from the AND, N and V from the two top bits of the operand (42_alu.md R224). -/
def Status.bitMemory {w : Nat} (p : Status) (a m : BitVec w) : Status :=
  { p with z := (a &&& m) == 0#w, n := m.getLsbD (w - 1), v := m.getLsbD (w - 2) }

/-- BIT immediate: Z only (42_alu.md R224). -/
def Status.bitImmediate {w : Nat} (p : Status) (a m : BitVec w) : Status :=
  { p with z := (a &&& m) == 0#w }

/-- A read-modify-write operation: the accumulator, the old value and P give the new value and the new P. -/
abbrev RmwOp := AluOp

/-- ASL (43_rmw.md R241). -/
def rmwAsl : RmwOp := fun _ _ v p =>
  let r := v <<< 1
  (r, { p with c := v.msb }.setNZ r)

/-- LSR (43_rmw.md R242). -/
def rmwLsr : RmwOp := fun _ _ v p =>
  let r := v >>> 1
  (r, { p with c := v.getLsbD 0 }.setNZ r)

/-- ROL (43_rmw.md R243). -/
def rmwRol : RmwOp := fun w _ v p =>
  let r := v <<< 1 ||| (BitVec.ofBool p.c).setWidth w
  (r, { p with c := v.msb }.setNZ r)

/-- ROR (43_rmw.md R244). -/
def rmwRor : RmwOp := fun w _ v p =>
  let r := v >>> 1 ||| (BitVec.ofBool p.c).setWidth w <<< (w - 1)
  (r, { p with c := v.getLsbD 0 }.setNZ r)

/-- INC (43_rmw.md R245). -/
def rmwInc : RmwOp := fun w _ v p => (v + 1#w, p.setNZ (v + 1#w))

/-- DEC (43_rmw.md R246). -/
def rmwDec : RmwOp := fun w _ v p => (v - 1#w, p.setNZ (v - 1#w))

/-- TSB (43_rmw.md R247). -/
def rmwTsb : RmwOp := fun w a v p => (v ||| a, { p with z := (a &&& v) == 0#w })

/-- TRB (43_rmw.md R248). -/
def rmwTrb : RmwOp := fun w a v p => (v &&& ~~~a, { p with z := (a &&& v) == 0#w })

/-- `P and (not mask)` (47_flags_mode.md R347). -/
def Status.clearMask (p : Status) (mask : Byte) : Status := Status.ofByte (p.toByte &&& ~~~mask)

/-- `P or mask` (47_flags_mode.md R348). -/
def Status.setMask (p : Status) (mask : Byte) : Status := Status.ofByte (p.toByte ||| mask)

end Sys2Proof.Machine
end

