-- ==== Sys2Proof/Machine/Memory.lean ====
section
/-! DEFINITION. Storage: canonical lists of bytes and of map entries, and the three stores of 20_memory.md R78. -/

namespace Sys2Proof.Machine

/-- What an unlisted byte of a store reads as: 0x00, DESIGN CHOICE (log 5). -/
def unlistedByte : Byte := 0x00

/-- The byte at an address of a store. -/
def cellRead : List Host.Cell → Nat → Byte
  | [], _ => unlistedByte
  | (k', v) :: rest, k => if k = k' then v else cellRead rest k

/-- A store with one byte written, canonical if it was: a byte equal to what an unlisted address reads as is
not listed. -/
def cellWrite : List Host.Cell → Nat → Byte → List Host.Cell
  | [], k, v => if v = unlistedByte then [] else [(k, v)]
  | (k', v') :: rest, k, v =>
    if k < k' then
      if v = unlistedByte then (k', v') :: rest else (k, v) :: (k', v') :: rest
    else if k = k' then
      if v = unlistedByte then rest else (k, v) :: rest
    else (k', v') :: cellWrite rest k v

/-- The canonical form of a store whose addresses lie from `low` up to `high` (excluded): addresses strictly
rising, no byte equal to what an unlisted address reads as. -/
def cellsWf (low high : Nat) : List Host.Cell → Bool
  | [] => true
  | (k, v) :: rest => decide (low ≤ k) && decide (k < high) && decide (v ≠ unlistedByte) && cellsWf (k + 1) high rest

/-- The entry of a map, where it lists one. -/
def entryRead {α : Type} : List (Nat × α) → Nat → Option α
  | [], _ => none
  | (k', v) :: rest, k => if k = k' then some v else entryRead rest k

/-- A map with one entry set (`some`) or taken out (`none`). -/
def entryWrite {α : Type} : List (Nat × α) → Nat → Option α → List (Nat × α)
  | [], k, v => match v with
    | some v => [(k, v)]
    | none => []
  | (k', v') :: rest, k, v =>
    if k < k' then
      match v with
      | some v => (k, v) :: (k', v') :: rest
      | none => (k', v') :: rest
    else if k = k' then
      match v with
      | some v => (k, v) :: rest
      | none => rest
    else (k', v') :: entryWrite rest k v

/-- Keys strictly rising from `low` up to `high` (excluded). -/
def entriesWf {α : Type} (low high : Nat) : List (Nat × α) → Bool
  | [] => true
  | (k, _) :: rest => decide (low ≤ k) && decide (k < high) && entriesWf (k + 1) high rest

/-- A byte of storage: a bank of one of the stores and an offset in it. -/
structure Loc where
  store : StoreBank
  offset : Word
deriving DecidableEq, Repr

/-- The number of a slow-RAM bank (20_memory.md R81). -/
def slowBankNumber : SlowBank → Byte
  | .e0 => 0xE0
  | .e1 => 0xE1

/-- The bank number a location is listed under. -/
def storeBankNumber : StoreBank → Byte
  | .fast b => b
  | .slow b => slowBankNumber b
  | .rom b => b

/-- The address a location is listed under in its store. -/
def Loc.key (l : Loc) : Nat := (joinAddr (storeBankNumber l.store) l.offset).toNat

/-- The byte at a location. -/
def Memory.byte (m : Memory) (l : Loc) : Byte :=
  match l.store with
  | .fast _ => cellRead m.fast l.key
  | .slow _ => cellRead m.slow l.key
  | .rom _ => cellRead m.rom l.key

/-- Sets the byte at a location, in the ROM image too: for the host, which supplies the contents. -/
def Memory.put (m : Memory) (l : Loc) (v : Byte) : Memory :=
  match l.store with
  | .fast _ => { m with fast := cellWrite m.fast l.key v }
  | .slow _ => { m with slow := cellWrite m.slow l.key v }
  | .rom _ => { m with rom := cellWrite m.rom l.key v }

/-- A write of the core: the ROM image is read-only (20_memory.md R79). -/
def Memory.write (m : Memory) (l : Loc) (v : Byte) : Memory :=
  match l.store with
  | .rom _ => m
  | _ => m.put l v

/-- The canonical form of all three stores. -/
def Memory.wf (m : Memory) : Bool :=
  cellsWf 0 (2 ^ 24) m.fast && cellsWf 0xE00000 0xE20000 m.slow && cellsWf 0 (2 ^ 24) m.rom

end Sys2Proof.Machine
end

