-- ==== Sys2Proof/Machine/Ops.lean ====
section
/-! DEFINITION. The named operations over the state: the clock, the bus and its two primitives, the registers with
their widths, the stack, taking an exception and returning from one, reset. -/

namespace Sys2Proof.Machine

/-- The width of an operation, chosen by P.M or P.X (10_state.md R34). -/
inductive Width
  | w8 | w16
deriving DecidableEq, Repr

/-- The bytes of a width. -/
def Width.bytes : Width → Nat
  | .w8 => 1
  | .w16 => 2

/-- `wM` (10_state.md R34). -/
def Status.widthM (p : Status) : Width := if p.m then .w8 else .w16

/-- `wX` (10_state.md R34). -/
def Status.widthX (p : Status) : Width := if p.x then .w8 else .w16

/-! ## The clock (70_reset_and_hazards.md R460 to R462) -/

/-- The step of one cycle. -/
def Clock.step (c : Clock) (slow : Bool) : Nat := if slow || c.speedGate then c.slowStep else c.fastStep

/-- `n` cycles of one kind. -/
def Clock.charge (c : Clock) (slow : Bool) (n : Nat) : Clock :=
  { c with ts := c.ts + n * c.step slow, cyclesSpent := c.cyclesSpent + n }

/-- `Internal(n)`: `n` cycles without an address, fast unless the speed gate forces slow (R461). -/
def State.internal (n : Nat) (s : State) : State := { s with clock := s.clock.charge false n }

/-- Ends, at `s`, an instruction or an entry that began at `s0`, `fetched` of whose bus cycles were charged before `s0`:
charges the internal cycles, not charged yet, that bring it to its `total` of R463 (R461, log 12). -/
def State.settle (s : State) (total fetched : Nat) (s0 : State) : State :=
  s.internal (total - fetched - (s.clock.cyclesSpent - s0.clock.cyclesSpent))

/-! ## The bus (20_memory.md) -/

/-- The descriptor a bank has from the start: the flat platform of 92_eei_decisions.md D28 (20_memory.md R83, log 6). -/
def flatBank (fastRamBanks : Nat) (bank : Byte) : BankDesc :=
  if bank = 0xE0 then { kind := .slowRam .e0, readOnly := false }
  else if bank = 0xE1 then { kind := .slowRam .e1, readOnly := false }
  else if bank.toNat < fastRamBanks then { kind := .fastRam bank, readOnly := false }
  else { kind := .empty, readOnly := false }

/-- The Bank Map entry of a bank (20_memory.md R77, stage 1). -/
def State.bankDesc (s : State) (bank : Byte) : BankDesc :=
  (entryRead s.bus.bankMap bank.toNat).getD (flatBank s.params.fastRamBanks bank)

/-- What a page resolves to where the page mapping is the identity (20_memory.md R79). DESIGN CHOICE (log 6): a reference to any of
the 256 entries of the fast-RAM table is storage, also at or above `FAST_RAM_BANKS`. -/
def bankTarget (d : BankDesc) (page : Byte) : Target :=
  match d.kind with
  | .fastRam b => .mem { store := .fast b, page := page } d.readOnly none
  | .slowRam b => .mem { store := .slow b, page := page } d.readOnly none
  | .rom b => .mem { store := .rom b, page := page } true none
  | .empty => .empty
  | .ioGate => .io

/-- The page mapping for one direction (20_memory.md R77, R84). -/
def Bus.pages (b : Bus) : Dir → List (Nat × Target)
  | .read => b.readPages
  | .write => b.writePages

/-- The key of a page in a page mapping. -/
def pageKey (bank page : Byte) : Nat := (joinWord bank page).toNat

/-- `Resolve(bank, page, read or write)` (20_memory.md R77). -/
def State.resolve (s : State) (dir : Dir) (a : Addr) : Target :=
  (entryRead (s.bus.pages dir) (pageKey (bankOf a) (highByte (offsetOf a)))).getD
    (bankTarget (s.bankDesc (bankOf a)) (highByte (offsetOf a)))

/-- The location in a page that an address selects: the low 8 bits are never remapped (20_memory.md R77). -/
def pageLoc (pg : Page) (a : Addr) : Loc := { store := pg.store, offset := joinWord pg.page (lowByte (offsetOf a)) }

/-- Slow storage (20_memory.md R79). -/
def pageSlow (pg : Page) : Bool :=
  match pg.store with
  | .slow _ => true
  | _ => false

/-- Whether an access is charged `slow_step`: it reaches slow RAM or the I/O gate (20_memory.md R79,
70_reset_and_hazards.md R462); a write shadowed to slow RAM does (log 11). -/
def targetSlow : Target → Bool
  | .mem pg _ shadow => pageSlow pg || shadow.any pageSlow
  | .empty => false
  | .io => true

/-- One edit of a page mapping. -/
def Bus.editPage (b : Bus) (e : PageEdit) : Bus :=
  match e.dir with
  | .read => { b with readPages := entryWrite b.readPages (pageKey e.bank e.page) e.target }
  | .write => { b with writePages := entryWrite b.writePages (pageKey e.bank e.page) e.target }

/-- One edit of the Bank Map. -/
def Bus.editBank (b : Bus) (e : Byte × BankDesc) : Bus :=
  { b with bankMap := entryWrite b.bankMap e.1.toNat (some e.2) }

/-- Edits of the Bank Map, then of the page mappings. -/
def Bus.edit (b : Bus) (banks : List (Byte × BankDesc)) (pages : List PageEdit) : Bus :=
  pages.foldl Bus.editPage (banks.foldl Bus.editBank b)

/-- What one I/O access changes outside the value it moves: the collaborator's effects and `refresh_bank_map`
(20_memory.md R85 to R87, 60_exceptions.md R388, log 9). -/
def State.applyIo (access : IoAccess) (s : State) : State :=
  let e := Config.mmioEffect s.bus.ioCount access
  { s with
    pins := { s.pins with
      irqbIn := e.irqbIn.getD s.pins.irqbIn
      nmiPending := s.pins.nmiPending || e.nmiPulse }
    clock := { s.clock with speedGate := e.speedGate.getD s.clock.speedGate }
    bus := { s.bus.edit e.bankEdits e.pageEdits with ioCount := s.bus.ioCount + 1 } }

/-- One bus cycle to a target (70_reset_and_hazards.md R462). -/
def State.busCycle (t : Target) (s : State) : State := { s with clock := s.clock.charge (targetSlow t) 1 }

/-- `MemRead` (20_memory.md R75): the byte, and the state after the access. -/
def State.busRead (a : Addr) (kind : AccessKind) (s : State) : Byte × State :=
  match s.resolve .read a with
  | .io =>
    (Config.mmioRead s.bus.ioCount (bankOf a) (offsetOf a) kind,
      if kind = .noOp then s.busCycle .io else (s.busCycle .io).applyIo (.read (bankOf a) (offsetOf a) kind))
  | .empty => (0x00, s.busCycle .empty)
  | .mem pg ro _ => (s.bus.mem.byte (pageLoc pg a), s.busCycle (.mem pg ro none))

/-- A byte written to a target: dropped where it is read-only or Empty (20_memory.md R76, R80), delivered to the
shadow page as well where there is one (R84, log 11). DESIGN CHOICE (log 22): a page of ROM whose entry is not marked read-only
drops the byte itself, but its shadow page still takes it. -/
def Memory.writeTarget (m : Memory) (t : Target) (a : Addr) (v : Byte) : Memory :=
  match t with
  | .mem pg false none => m.write (pageLoc pg a) v
  | .mem pg false (some sh) => (m.write (pageLoc pg a) v).write (pageLoc sh a) v
  | .mem _ true _ => m
  | .empty => m
  | .io => m

/-- `MemWrite` (20_memory.md R76). The kind of a write reaches no collaborator (R86). -/
def State.busWrite (a : Addr) (_kind : AccessKind) (v : Byte) (s : State) : State :=
  match s.resolve .write a with
  | .io => (s.busCycle .io).applyIo (.write (bankOf a) (offsetOf a) v)
  | t =>
    let s1 := s.busCycle t
    { s1 with bus.mem := s.bus.mem.writeTarget t a v }

/-- The byte a read without side effects and without a cycle gives: a host tool's peek, kind NoOp (20_memory.md R71,
R87, R97). -/
def State.peek (s : State) (a : Addr) : Byte :=
  match s.resolve .read a with
  | .io => Config.mmioRead s.bus.ioCount (bankOf a) (offsetOf a) .noOp
  | .empty => 0x00
  | .mem pg _ _ => s.bus.mem.byte (pageLoc pg a)

/-! ## Registers -/

/-- `Normalize()` (10_state.md R37). -/
def Regs.normalize (r : Regs) : Regs :=
  let r1 := if r.e then { r with p := { r.p with m := true, x := true }, s := joinWord 0x01 (lowByte r.s) } else r
  if r1.p.x then { r1 with x := zeroExt (lowByte r1.x), y := zeroExt (lowByte r1.y) } else r1

/-- The value of a register at a width: its low byte, or all of it. -/
def Width.take : Width → Word → Word
  | .w8, v => zeroExt (lowByte v)
  | .w16, v => v

/-- The accumulator after a write at a width: A.h is kept when the width is 8 (10_state.md R21). -/
def Width.insert : Width → (old new : Word) → Word
  | .w8, old, new => joinWord (highByte old) (lowByte new)
  | .w16, _, new => new

/-- `SetNZ(w, v)` at a width chosen at run time (10_state.md R33). -/
def Status.setNZAt (p : Status) : Width → Word → Status
  | .w8, v => p.setNZ (lowByte v)
  | .w16, v => p.setNZ v

/-- A load of A at a width, with N and Z (41_load_store.md R191). -/
def Regs.loadA (r : Regs) (w : Width) (v : Word) : Regs :=
  { r with a := w.insert r.a v, p := r.p.setNZAt w v }

/-- A load of X at width `wX`, with N and Z (41_load_store.md R192). -/
def Regs.loadX (r : Regs) (v : Word) : Regs :=
  { r with x := r.p.widthX.take v, p := r.p.setNZAt r.p.widthX v }

/-- A load of Y at width `wX`, with N and Z (41_load_store.md R193). -/
def Regs.loadY (r : Regs) (v : Word) : Regs :=
  { r with y := r.p.widthX.take v, p := r.p.setNZAt r.p.widthX v }

/-- S written by TXS or TCS: the high byte stays latched in emulation mode (44_transfer.md R265, R270). -/
def Regs.setS (r : Regs) (v : Word) : Regs :=
  { r with s := if r.e then joinWord 0x01 (lowByte v) else v }

/-- An operation at a width chosen at run time, on a register and an operand (42_alu.md R210, 43_rmw.md R240). An 8-bit
result is zero-extended. -/
def runOp (op : AluOp) (w : Width) (a v : Word) (p : Status) : Word × Status :=
  match w with
  | .w8 => (zeroExt (op 8 (lowByte a) (lowByte v) p).1, (op 8 (lowByte a) (lowByte v) p).2)
  | .w16 => op 16 a v p

/-- A and P after an operation on A at width `wM`: `A.h` is kept when the width is 8 (42_alu.md R210). -/
def Regs.aluA (r : Regs) (op : AluOp) (v : Word) : Regs :=
  let t := runOp op r.p.widthM r.a v r.p
  { r with a := r.p.widthM.insert r.a t.1, p := t.2 }

/-- A compare of a register with an operand at a width (42_alu.md R221). -/
def Status.compareAt (p : Status) : Width → (a v : Word) → Status
  | .w8, a, v => p.compare (lowByte a) (lowByte v)
  | .w16, a, v => p.compare a v

/-- `s` with the registers changed. -/
def State.mapRegs (f : Regs → Regs) (s : State) : State := { s with regs := f s.regs }

/-! ## The stack (45_stack.md R280 to R284) -/

/-- Membership in `EMU_STACK_QUIRK_SET` (45_stack.md R283). -/
def State.quirk (s : State) (u : StackUser) : Bool := decide (u ∈ s.params.emuStackQuirkSet)

/-- S after a push: confined to page 0x01, or all 16 bits (45_stack.md R280, R282). -/
def stackDown (confined : Bool) (sp : Word) : Word :=
  if confined then joinWord 0x01 (lowByte sp - 1) else sp - 1

/-- S after the increment of a pull (45_stack.md R281, R282). -/
def stackUp (confined : Bool) (sp : Word) : Word :=
  if confined then joinWord 0x01 (lowByte sp + 1) else sp + 1

/-- `Push8(b)`, or `Push8N(b)` where `full` (45_stack.md R280, R282). -/
def State.push8 (full : Bool) (b : Byte) (s : State) : State :=
  let s1 := s.busWrite (joinAddr 0x00 s.regs.s) .stack b
  { s1 with regs.s := stackDown (s1.regs.e && !full) s1.regs.s }

/-- `Pull8()`, or `Pull8N()` where `full` (45_stack.md R281, R282). -/
def State.pull8 (full : Bool) (s : State) : Byte × State :=
  let sp := stackUp (s.regs.e && !full) s.regs.s
  { s with regs.s := sp }.busRead (joinAddr 0x00 sp) .stack

/-- `Push16`: high byte, then low byte (45_stack.md R284). -/
def State.push16 (full : Bool) (v : Word) (s : State) : State :=
  (s.push8 full (highByte v)).push8 full (lowByte v)

/-- `Pull16`: low byte, then high byte (45_stack.md R284). -/
def State.pull16 (full : Bool) (s : State) : Word × State :=
  let l := s.pull8 full
  let h := l.2.pull8 full
  (joinWord h.1 l.1, h.2)

/-- A push at a width. -/
def State.pushAt (full : Bool) (w : Width) (v : Word) (s : State) : State :=
  match w with
  | .w8 => s.push8 full (lowByte v)
  | .w16 => s.push16 full v

/-- A pull at a width, zero-extended. -/
def State.pullAt (full : Bool) (w : Width) (s : State) : Word × State :=
  match w with
  | .w8 => let b := s.pull8 full; (zeroExt b.1, b.2)
  | .w16 => s.pull16 full

/-- The end of an instruction of the quirk set: `if E = 1 then S.h <- 0x01` (45_stack.md R283). -/
def State.endQuirk (full : Bool) (s : State) : State :=
  if full && s.regs.e then { s with regs.s := joinWord 0x01 (lowByte s.regs.s) } else s

/-! ## Taking an exception (60_exceptions.md R390 to R392) and returning from one (49_system.md R372) -/

/-- The kinds of `InterruptEntry` (60_exceptions.md R390). -/
inductive EntryKind
  | irq | nmi | brk | cop
deriving DecidableEq, Repr

/-- The vector of an entry: native, emulation (60_exceptions.md R391). -/
def vectorOffset (e : Bool) : EntryKind → Word
  | .cop => if e then 0xFFF4 else 0xFFE4
  | .brk => if e then 0xFFFE else 0xFFE6
  | .nmi => if e then 0xFFFA else 0xFFEA
  | .irq => if e then 0xFFFE else 0xFFEE

/-- The mask of bit `BREAK_BIT` (60_exceptions.md R392). -/
def breakMask : BreakBit → Byte
  | .bit4 => 0x10
  | .bit5 => 0x20

/-- `PushedStatus(kind)` (60_exceptions.md R392). -/
def pushedStatus (b : BreakBit) (e : Bool) (p : Status) (kind : EntryKind) : Byte :=
  match e, kind with
  | false, _ => p.toByte
  | true, .brk => p.toByte
  | true, .cop => p.toByte
  | true, .irq => p.toByte &&& ~~~breakMask b
  | true, .nmi => p.toByte &&& ~~~breakMask b

/-- Whether an entry's stack accesses have the quirk: BRK and COP where they are in the set (log 15). -/
def State.entryQuirk (s : State) : EntryKind → Bool
  | .brk => s.quirk .brk
  | .cop => s.quirk .cop
  | .irq => false
  | .nmi => false

/-- Two bytes of a vector in bank 0, low then high (60_exceptions.md R390). -/
def State.pullVector (v : Word) (s : State) : Word × State :=
  let l := s.busRead (joinAddr 0x00 v) .vectorPull
  let h := l.2.busRead (joinAddr 0x00 (v + 1)) .vectorPull
  (joinWord h.1 l.1, h.2)

/-- The frame of an entry: PBR in native mode only, PC, the status byte (60_exceptions.md R390). -/
def State.pushFrame (kind : EntryKind) (s : State) : State :=
  let full := s.entryQuirk kind
  let s1 := if s.regs.e then s else s.push8 full s.regs.pbr
  (s1.push16 full s.regs.pc).push8 full (pushedStatus s.params.breakBit s.regs.e s.regs.p kind)

/-- PC from a vector. -/
def State.loadVector (v : Word) (s : State) : State :=
  let t := s.pullVector v
  t.2.mapRegs fun r => { r with pc := t.1 }

/-- I set, D cleared, PBR cleared (60_exceptions.md R390). -/
def Regs.enter (r : Regs) : Regs := { r with p := { r.p with i := true, d := false }, pbr := 0x00 }

/-- `InterruptEntry(kind)`: the frame, I set, D cleared, PBR cleared, PC from the vector (60_exceptions.md R390).
PC holds the return address. -/
def State.interruptEntry (kind : EntryKind) (s : State) : State :=
  (((s.pushFrame kind).mapRegs Regs.enter).loadVector (vectorOffset s.regs.e kind)).endQuirk (s.entryQuirk kind)

/-- P from the stack, normalized (49_system.md R372, 45_stack.md R292). -/
def State.returnStatus (full : Bool) (s : State) : State :=
  let b := s.pull8 full
  b.2.mapRegs fun r => { r with p := Status.ofByte b.1 }.normalize

/-- PC from the stack (49_system.md R372). -/
def State.returnPc (full : Bool) (s : State) : State :=
  let v := s.pull16 full
  v.2.mapRegs fun r => { r with pc := v.1 }

/-- PBR from the stack, in native mode (49_system.md R372). -/
def State.returnBank (full : Bool) (s : State) : State :=
  if s.regs.e then s
  else
    let b := s.pull8 full
    b.2.mapRegs fun r => { r with pbr := b.1 }

/-- The return from an entry: P, then PC, then PBR in native mode (49_system.md R372). -/
def State.interruptReturn (full : Bool) (s : State) : State :=
  (((s.returnStatus full).returnPc full).returnBank full).endQuirk full

/-! ## Reset (70_reset_and_hazards.md R432, R433) -/

/-- The registers `ResetForce()` imposes (70_reset_and_hazards.md R432). -/
def Regs.resetForce (r : Regs) : Regs :=
  { r with
    e := true
    p := { r.p with m := true, x := true, i := true, d := false }
    s := joinWord 0x01 (lowByte r.s)
    x := zeroExt (lowByte r.x)
    y := zeroExt (lowByte r.y)
    d := 0x0000
    pbr := 0x00
    dbr := 0x00 }

/-- `ResetForce()` (70_reset_and_hazards.md R432). -/
def State.resetForce (s : State) : State :=
  { s with
    regs := s.regs.resetForce
    pins := { s.pins with readyOut := true, enabled := true, nmiPending := false } }

/-- `ResetSequence()`: the forced values, seven internal cycles, PC from the reset vector (70_reset_and_hazards.md
R433). -/
def State.resetSequence (s : State) : State :=
  let t := (s.resetForce.internal 7).loadVector 0xFFFC
  { t with pins.coarse := .execute }

/-- The host's countdown: one held step less, and the pin is released at zero (70_reset_and_hazards.md R436,
log 16). -/
def Pins.countHold (p : Pins) : Pins :=
  match p.resetHold with
  | none => p
  | some n => if n ≤ 1 then { p with resbIn := true, resetHold := none } else { p with resetHold := some (n - 1) }

/-- A step held in reset: `state <- Reset; ResetForce()`, one internal cycle (60_exceptions.md R380 case 1,
70_reset_and_hazards.md R436, R467). -/
def State.heldInReset (s : State) : State :=
  let s1 := s.resetForce.internal 1
  { s1 with pins := { s1.pins with coarse := .reset }.countHold }

end Sys2Proof.Machine
end

