-- ==== Sys2Proof/Machine/Operands.lean ====
section
/-! DEFINITION. The addressing modes: effective addresses, the reads and writes of data, the pointers of the jumps
(40_addressing.md), and the cycles each mode gives its instruction (70_reset_and_hazards.md R463). -/

namespace Sys2Proof.Machine

/-- Where the second byte of a 16-bit datum lies (40_addressing.md R146). -/
inductive Wrap
  | bank0 | linear
deriving DecidableEq, Repr

/-- The addressing modes that form a data address, with their operand bytes assembled (40_addressing.md R152 to R164,
R172, R173). -/
inductive Mode
  | abs (a : Word)
  | long (a : Addr)
  | dp (dp : Byte)
  | dpInd (dp : Byte)
  | dpIndLong (dp : Byte)
  | absX (a : Word)
  | longX (a : Addr)
  | absY (a : Word)
  | dpX (dp : Byte)
  | dpY (dp : Byte)
  | dpXInd (dp : Byte)
  | dpIndY (dp : Byte)
  | dpIndLongY (dp : Byte)
  | sr (sr : Byte)
  | srIndY (sr : Byte)
deriving DecidableEq, Repr

/-- An effective address with its wrap class (40_addressing.md R140), and the `p` of 70_reset_and_hazards.md R463, which
only ABS_X, ABS_Y and DP_IND_Y look at. -/
structure Ea where
  addr : Addr
  cls : Wrap
  cross : Bool
deriving DecidableEq, Repr

/-- An address in bank 0, of class Bank0. -/
def eaBank0 (off : Word) : Ea := { addr := joinAddr 0x00 off, cls := .bank0, cross := false }

/-- An address that carries a bank, of class Linear. -/
def eaLinear (a : Addr) : Ea := { addr := a, cls := .linear, cross := false }

/-- A 24-bit base plus an index, with carry into the bank (40_addressing.md R157), and the penalty `p`: P.X = 0, or the
sum changes the high byte of the 16-bit base (70_reset_and_hazards.md R469). -/
def eaIndexed (px : Bool) (base : Addr) (index : Word) : Ea where
  addr := base + indexAddr index
  cls := .linear
  cross := !px || highByte (offsetOf base + index) != highByte (offsetOf base)

/-- `E = 1` and `D.l = 0`: the direct page wraps inside the page (40_addressing.md R148, R150). -/
def Regs.pageWrap (r : Regs) : Bool := r.e && lowByte r.d == 0x00

/-- `DPAddr(dp, idx)` (40_addressing.md R150). -/
def Regs.dpAddr (r : Regs) (dp : Byte) (idx : Word) : Word :=
  if r.pageWrap then joinWord (highByte r.d) (dp + lowByte idx) else r.d + zeroExt dp + idx

/-- `S + sr` (40_addressing.md R172). -/
def Regs.srAddr (r : Regs) (sr : Byte) : Word := r.s + zeroExt sr

/-- The offset after `off`, or the one after it in its page (40_addressing.md R144, R148, R165). -/
def nextOffset (samePage : Bool) (off : Word) : Word :=
  if samePage then joinWord (highByte off) (lowByte off + 1) else off + 1

/-- A 16-bit read in one bank, the offset of the second byte wrapping in the page or in the bank. -/
def State.read16 (bank : Byte) (samePage : Bool) (off : Word) (s : State) : Word × State :=
  let l := s.busRead (joinAddr bank off) .data
  let h := l.2.busRead (joinAddr bank (nextOffset samePage off)) .data
  (joinWord h.1 l.1, h.2)

/-- `Read16Bank0` (40_addressing.md R144). -/
def State.read16Bank0 (off : Word) (s : State) : Word × State := s.read16 0x00 false off

/-- `Read16DPPtr` (40_addressing.md R148). -/
def State.read16DpPtr (off : Word) (s : State) : Word × State := s.read16 0x00 s.regs.pageWrap off

/-- `Read24Bank0` (40_addressing.md R145). -/
def State.read24Bank0 (off : Word) (s : State) : Addr × State :=
  let l := s.busRead (joinAddr 0x00 off) .data
  let h := l.2.busRead (joinAddr 0x00 (off + 1)) .data
  let b := h.2.busRead (joinAddr 0x00 (off + 2)) .data
  (joinAddr b.1 (joinWord h.1 l.1), b.2)

/-- The effective address of a mode, and the state after its pointer reads (40_addressing.md R152 to R164, R172,
R173). -/
def State.effective (md : Mode) (s : State) : Ea × State :=
  match md with
  | .abs a => (eaLinear (joinAddr s.regs.dbr a), s)
  | .long a => (eaLinear a, s)
  | .dp dp => (eaBank0 (s.regs.dpAddr dp 0), s)
  | .dpInd dp =>
    let p := s.read16DpPtr (s.regs.dpAddr dp 0)
    (eaLinear (joinAddr s.regs.dbr p.1), p.2)
  | .dpIndLong dp =>
    let p := s.read24Bank0 (s.regs.dpAddr dp 0)
    (eaLinear p.1, p.2)
  | .absX a => (eaIndexed s.regs.p.x (joinAddr s.regs.dbr a) s.regs.x, s)
  | .longX a => (eaIndexed s.regs.p.x a s.regs.x, s)
  | .absY a => (eaIndexed s.regs.p.x (joinAddr s.regs.dbr a) s.regs.y, s)
  | .dpX dp => (eaBank0 (s.regs.dpAddr dp s.regs.x), s)
  | .dpY dp => (eaBank0 (s.regs.dpAddr dp s.regs.y), s)
  | .dpXInd dp =>
    let p := s.read16DpPtr (s.regs.dpAddr dp s.regs.x)
    (eaLinear (joinAddr s.regs.dbr p.1), p.2)
  | .dpIndY dp =>
    let p := s.read16DpPtr (s.regs.dpAddr dp 0)
    (eaIndexed s.regs.p.x (joinAddr s.regs.dbr p.1) s.regs.y, p.2)
  | .dpIndLongY dp =>
    let p := s.read24Bank0 (s.regs.dpAddr dp 0)
    (eaIndexed s.regs.p.x p.1 s.regs.y, p.2)
  | .sr sr => (eaBank0 (s.regs.srAddr sr), s)
  | .srIndY sr =>
    let p := s.read16Bank0 (s.regs.srAddr sr)
    (eaIndexed s.regs.p.x (joinAddr s.regs.dbr p.1) s.regs.y, p.2)

/-- `Next(ea, cls)` (40_addressing.md R146). -/
def Ea.next (crossesBank : Bool) (e : Ea) : Addr :=
  match e.cls with
  | .bank0 => joinAddr 0x00 (offsetOf e.addr + 1)
  | .linear => if crossesBank then e.addr + 1 else joinAddr (bankOf e.addr) (offsetOf e.addr + 1)

/-- `ReadData`, zero-extended (40_addressing.md R146). -/
def State.readData (w : Width) (e : Ea) (s : State) : Word × State :=
  let l := s.busRead e.addr .data
  match w with
  | .w8 => (zeroExt l.1, l.2)
  | .w16 =>
    let h := l.2.busRead (e.next s.params.data16CrossesBank) .data
    (joinWord h.1 l.1, h.2)

/-- `WriteData`: low byte first (40_addressing.md R147). -/
def State.writeData (w : Width) (e : Ea) (v : Word) (s : State) : State :=
  let s1 := s.busWrite e.addr .data (lowByte v)
  match w with
  | .w8 => s1
  | .w16 => s1.busWrite (e.next s.params.data16CrossesBank) .data (highByte v)

/-- The write-back of a read-modify-write: high byte first (43_rmw.md R240). -/
def State.writeBack (w : Width) (e : Ea) (v : Word) (s : State) : State :=
  let s1 :=
    match w with
    | .w8 => s
    | .w16 => s.busWrite (e.next s.params.data16CrossesBank) .data (highByte v)
  s1.busWrite e.addr .data (lowByte v)

/-! ## The targets of jumps -/

/-- Whether the pointer of `JMP (abs)` wraps in its page (40_addressing.md R165). -/
def jmpIndWraps (wrap : JmpIndWrap) (e : Bool) : Bool :=
  match wrap with
  | .never => false
  | .emulationOnly => e
  | .always => true

/-- PC_IND (40_addressing.md R165). -/
def State.targetInd (a : Word) (s : State) : Word × State :=
  s.read16 0x00 (jmpIndWraps s.params.jmpIndPageWrap s.regs.e) a

/-- PC_IND_X (40_addressing.md R169). -/
def State.targetIndX (a : Word) (s : State) : Word × State := s.read16 s.regs.pbr false (a + s.regs.x)

/-- PC_IND_LONG (40_addressing.md R171). -/
def State.targetIndLong (a : Word) (s : State) : Addr × State := s.read24Bank0 a

/-! ## Cycles (70_reset_and_hazards.md R463) -/

/-- The bytes of an instruction of a mode, opcode included (30_encoding.md R111). -/
def Mode.length : Mode → Nat
  | .abs _ | .absX _ | .absY _ => 3
  | .long _ | .longX _ => 4
  | .dp _ | .dpInd _ | .dpIndLong _ | .dpX _ | .dpY _ | .dpXInd _ | .dpIndY _ | .dpIndLongY _ => 2
  | .sr _ | .srIndY _ => 2

/-- The cycles of an 8-bit read through a mode, without penalties (70_reset_and_hazards.md R463). -/
def Mode.cycles : Mode → Nat
  | .dp _ => 3
  | .abs _ | .absX _ | .absY _ | .dpX _ | .dpY _ | .sr _ => 4
  | .long _ | .longX _ | .dpInd _ | .dpIndY _ => 5
  | .dpIndLong _ | .dpXInd _ | .dpIndLongY _ => 6
  | .srIndY _ => 7

/-- The modes that fetch a `dp` operand byte (70_reset_and_hazards.md R465). -/
def Mode.direct : Mode → Bool
  | .dp _ | .dpInd _ | .dpIndLong _ | .dpX _ | .dpY _ | .dpXInd _ | .dpIndY _ | .dpIndLongY _ => true
  | .abs _ | .absX _ | .absY _ | .long _ | .longX _ | .sr _ | .srIndY _ => false

/-- The modes with an index penalty (70_reset_and_hazards.md R469). -/
def Mode.paysIndex : Mode → Bool
  | .absX _ | .absY _ | .dpIndY _ => true
  | .abs _ | .long _ | .longX _ | .dp _ | .dpInd _ | .dpIndLong _ | .dpX _ | .dpY _ | .dpXInd _ => false
  | .dpIndLongY _ | .sr _ | .srIndY _ => false

/-- The `w` of 70_reset_and_hazards.md R463: `D.l ≠ 0`. -/
def Regs.directPenalty (r : Regs) : Nat := if lowByte r.d = 0x00 then 0 else 1

/-- The `m` or `x` of 70_reset_and_hazards.md R463: one more byte. -/
def Width.extra : Width → Nat
  | .w8 => 0
  | .w16 => 1

/-- The part of an instruction's total that its mode gives, the index penalty aside. -/
def Regs.modeCycles (r : Regs) (md : Mode) : Nat := md.cycles + (if md.direct then r.directPenalty else 0)

/-- The total of an instruction that reads a datum. -/
def Regs.readCycles (r : Regs) (md : Mode) (w : Width) (e : Ea) : Nat :=
  r.modeCycles md + w.extra + (if md.paysIndex && e.cross then 1 else 0)

/-- The total of an instruction that stores a datum. -/
def Regs.storeCycles (r : Regs) (md : Mode) (w : Width) : Nat :=
  r.modeCycles md + w.extra + (if md.paysIndex then 1 else 0)

/-- The total of an instruction that modifies a datum in memory (70_reset_and_hazards.md R464). -/
def Regs.modifyCycles (r : Regs) (md : Mode) (w : Width) : Nat :=
  r.modeCycles md + 2 + 2 * w.extra + (if md.paysIndex then 1 else 0)

/-- The `d` of 70_reset_and_hazards.md R463, for ADC and SBC (R466). -/
def State.decimalCycles (s : State) : Nat := if s.params.decimalPenalty && s.regs.p.d then 1 else 0

/-- The `e` of 70_reset_and_hazards.md R463: one more byte in native mode. -/
def Regs.nativeExtra (r : Regs) : Nat := if r.e then 0 else 1

/-! ## The shapes of instructions -/

/-- An instruction that reads its operand at width `w` and changes registers only (41_load_store.md R190, 42_alu.md
R210). -/
def State.readOperand (md : Mode) (w : Width) (penalty : Nat) (f : Word → Regs → Regs) (s : State) : State :=
  let e := s.effective md
  let v := e.2.readData w e.1
  (v.2.mapRegs (f v.1)).settle (s.regs.readCycles md w e.1 + penalty) md.length s

/-- The same with an immediate operand (40_addressing.md R151). -/
def State.immediate (imm : Word) (w : Width) (penalty : Nat) (f : Word → Regs → Regs) (s : State) : State :=
  (s.mapRegs (f imm)).settle (1 + w.bytes + penalty) (1 + w.bytes) s

/-- An instruction that stores a value at width `w` (41_load_store.md R190). -/
def State.store (md : Mode) (w : Width) (v : Word) (s : State) : State :=
  let e := s.effective md
  (e.2.writeData w e.1 v).settle (s.regs.storeCycles md w) md.length s

/-- A read-modify-write on memory at width `wM` (43_rmw.md R240), one internal cycle between the last read and the first write
(70_reset_and_hazards.md R464). -/
def State.modify (md : Mode) (op : RmwOp) (s : State) : State :=
  let w := s.regs.p.widthM
  let e := s.effective md
  let v := e.2.readData w e.1
  let r := runOp op w s.regs.a v.1 s.regs.p
  let s1 := (v.2.internal 1).writeBack w e.1 r.1
  (s1.mapRegs fun g => { g with p := r.2 }).settle (s.regs.modifyCycles md w) md.length s

/-- An instruction of one byte and `n` cycles that changes registers only. -/
def State.implied (n : Nat) (f : Regs → Regs) (s : State) : State := (s.mapRegs f).settle n 1 s

end Sys2Proof.Machine
end

