-- ==== Sys2Proof/Machine/Alu.lean ====
section
/-! DEFINITION. Arithmetic, logic, compare and bit test (42_alu.md).
A meaning starts after the fetch: PC is at the next instruction, the flags are those of the fetch. -/

namespace Sys2Proof.Machine

/-- CMP on A (42_alu.md R221). -/
def Regs.cmpA (v : Word) (r : Regs) : Regs := { r with p := r.p.compareAt r.p.widthM r.a v }

/-- CPX (42_alu.md R222). -/
def Regs.cmpX (v : Word) (r : Regs) : Regs := { r with p := r.p.compareAt r.p.widthX r.x v }

/-- CPY (42_alu.md R223). -/
def Regs.cmpY (v : Word) (r : Regs) : Regs := { r with p := r.p.compareAt r.p.widthX r.y v }

/-- BIT on a memory operand (42_alu.md R224). -/
def Regs.bitMem (v : Word) (r : Regs) : Regs :=
  match r.p.widthM with
  | .w8 => { r with p := r.p.bitMemory (lowByte r.a) (lowByte v) }
  | .w16 => { r with p := r.p.bitMemory r.a v }

/-- BIT on an immediate operand (42_alu.md R224). -/
def Regs.bitImm (v : Word) (r : Regs) : Regs :=
  match r.p.widthM with
  | .w8 => { r with p := r.p.bitImmediate (lowByte r.a) (lowByte v) }
  | .w16 => { r with p := r.p.bitImmediate r.a v }

/-- An operation on A and a memory operand (42_alu.md R210). -/
def State.alu (op : AluOp) (penalty : Nat) (md : Mode) (s : State) : State :=
  s.readOperand md s.regs.p.widthM penalty fun v r => r.aluA op v

/-- An operation on A and an immediate operand (42_alu.md R210). -/
def State.aluImm (op : AluOp) (penalty : Nat) (imm : Word) (s : State) : State :=
  s.immediate imm s.regs.p.widthM penalty fun v r => r.aluA op v

/-- ADC (42_alu.md R211). -/
def State.adc (md : Mode) (s : State) : State := s.alu (aluAdc s.params.decimalV) s.decimalCycles md

/-- SBC (42_alu.md R215). -/
def State.sbc (md : Mode) (s : State) : State := s.alu (aluSbc s.params.decimalV) s.decimalCycles md

/-- CMP (42_alu.md R221). -/
def State.cmp (md : Mode) (s : State) : State := s.readOperand md s.regs.p.widthM 0 Regs.cmpA

/-- CPX (42_alu.md R222). -/
def State.cpx (md : Mode) (s : State) : State := s.readOperand md s.regs.p.widthX 0 Regs.cmpX

/-- CPY (42_alu.md R223). -/
def State.cpy (md : Mode) (s : State) : State := s.readOperand md s.regs.p.widthX 0 Regs.cmpY

/-- BIT (42_alu.md R224). -/
def State.bit (md : Mode) (s : State) : State := s.readOperand md s.regs.p.widthM 0 Regs.bitMem

/-- ADC, DP_X_IND (42_alu.md R211, 40_addressing.md R162). -/
def execAdcDpXInd (dp : Byte) (s : State) : Host.Outcome State Fault Refusal := .next (s.adc (.dpXInd dp))

/-- ADC, SR (42_alu.md R211, 40_addressing.md R172). -/
def execAdcSr (sr : Byte) (s : State) : Host.Outcome State Fault Refusal := .next (s.adc (.sr sr))

/-- ADC, DP (42_alu.md R211, 40_addressing.md R154). -/
def execAdcDp (dp : Byte) (s : State) : Host.Outcome State Fault Refusal := .next (s.adc (.dp dp))

/-- ADC, DP_IND_LONG (42_alu.md R211, 40_addressing.md R156). -/
def execAdcDpIndLong (dp : Byte) (s : State) : Host.Outcome State Fault Refusal := .next (s.adc (.dpIndLong dp))

/-- ADC, IMM_M (42_alu.md R211, 40_addressing.md R151). -/
def execAdcImmM (imm : Word) (s : State) : Host.Outcome State Fault Refusal :=
  .next (s.aluImm (aluAdc s.params.decimalV) s.decimalCycles imm)

/-- ADC, ABS (42_alu.md R211, 40_addressing.md R152). -/
def execAdcAbs (a : Word) (s : State) : Host.Outcome State Fault Refusal := .next (s.adc (.abs a))

/-- ADC, LONG (42_alu.md R211, 40_addressing.md R153). -/
def execAdcLong (a : Addr) (s : State) : Host.Outcome State Fault Refusal := .next (s.adc (.long a))

/-- ADC, DP_IND_Y (42_alu.md R211, 40_addressing.md R163). -/
def execAdcDpIndY (dp : Byte) (s : State) : Host.Outcome State Fault Refusal := .next (s.adc (.dpIndY dp))

/-- ADC, DP_IND (42_alu.md R211, 40_addressing.md R155). -/
def execAdcDpInd (dp : Byte) (s : State) : Host.Outcome State Fault Refusal := .next (s.adc (.dpInd dp))

/-- ADC, SR_IND_Y (42_alu.md R211, 40_addressing.md R173). -/
def execAdcSrIndY (sr : Byte) (s : State) : Host.Outcome State Fault Refusal := .next (s.adc (.srIndY sr))

/-- ADC, DP_X (42_alu.md R211, 40_addressing.md R160). -/
def execAdcDpX (dp : Byte) (s : State) : Host.Outcome State Fault Refusal := .next (s.adc (.dpX dp))

/-- ADC, DP_IND_LONG_Y (42_alu.md R211, 40_addressing.md R164). -/
def execAdcDpIndLongY (dp : Byte) (s : State) : Host.Outcome State Fault Refusal := .next (s.adc (.dpIndLongY dp))

/-- ADC, ABS_Y (42_alu.md R211, 40_addressing.md R159). -/
def execAdcAbsY (a : Word) (s : State) : Host.Outcome State Fault Refusal := .next (s.adc (.absY a))

/-- ADC, ABS_X (42_alu.md R211, 40_addressing.md R157). -/
def execAdcAbsX (a : Word) (s : State) : Host.Outcome State Fault Refusal := .next (s.adc (.absX a))

/-- ADC, LONG_X (42_alu.md R211, 40_addressing.md R158). -/
def execAdcLongX (a : Addr) (s : State) : Host.Outcome State Fault Refusal := .next (s.adc (.longX a))

/-- SBC, DP_X_IND (42_alu.md R215, 40_addressing.md R162). -/
def execSbcDpXInd (dp : Byte) (s : State) : Host.Outcome State Fault Refusal := .next (s.sbc (.dpXInd dp))

/-- SBC, SR (42_alu.md R215, 40_addressing.md R172). -/
def execSbcSr (sr : Byte) (s : State) : Host.Outcome State Fault Refusal := .next (s.sbc (.sr sr))

/-- SBC, DP (42_alu.md R215, 40_addressing.md R154). -/
def execSbcDp (dp : Byte) (s : State) : Host.Outcome State Fault Refusal := .next (s.sbc (.dp dp))

/-- SBC, DP_IND_LONG (42_alu.md R215, 40_addressing.md R156). -/
def execSbcDpIndLong (dp : Byte) (s : State) : Host.Outcome State Fault Refusal := .next (s.sbc (.dpIndLong dp))

/-- SBC, IMM_M (42_alu.md R215, 40_addressing.md R151). -/
def execSbcImmM (imm : Word) (s : State) : Host.Outcome State Fault Refusal :=
  .next (s.aluImm (aluSbc s.params.decimalV) s.decimalCycles imm)

/-- SBC, ABS (42_alu.md R215, 40_addressing.md R152). -/
def execSbcAbs (a : Word) (s : State) : Host.Outcome State Fault Refusal := .next (s.sbc (.abs a))

/-- SBC, LONG (42_alu.md R215, 40_addressing.md R153). -/
def execSbcLong (a : Addr) (s : State) : Host.Outcome State Fault Refusal := .next (s.sbc (.long a))

/-- SBC, DP_IND_Y (42_alu.md R215, 40_addressing.md R163). -/
def execSbcDpIndY (dp : Byte) (s : State) : Host.Outcome State Fault Refusal := .next (s.sbc (.dpIndY dp))

/-- SBC, DP_IND (42_alu.md R215, 40_addressing.md R155). -/
def execSbcDpInd (dp : Byte) (s : State) : Host.Outcome State Fault Refusal := .next (s.sbc (.dpInd dp))

/-- SBC, SR_IND_Y (42_alu.md R215, 40_addressing.md R173). -/
def execSbcSrIndY (sr : Byte) (s : State) : Host.Outcome State Fault Refusal := .next (s.sbc (.srIndY sr))

/-- SBC, DP_X (42_alu.md R215, 40_addressing.md R160). -/
def execSbcDpX (dp : Byte) (s : State) : Host.Outcome State Fault Refusal := .next (s.sbc (.dpX dp))

/-- SBC, DP_IND_LONG_Y (42_alu.md R215, 40_addressing.md R164). -/
def execSbcDpIndLongY (dp : Byte) (s : State) : Host.Outcome State Fault Refusal := .next (s.sbc (.dpIndLongY dp))

/-- SBC, ABS_Y (42_alu.md R215, 40_addressing.md R159). -/
def execSbcAbsY (a : Word) (s : State) : Host.Outcome State Fault Refusal := .next (s.sbc (.absY a))

/-- SBC, ABS_X (42_alu.md R215, 40_addressing.md R157). -/
def execSbcAbsX (a : Word) (s : State) : Host.Outcome State Fault Refusal := .next (s.sbc (.absX a))

/-- SBC, LONG_X (42_alu.md R215, 40_addressing.md R158). -/
def execSbcLongX (a : Addr) (s : State) : Host.Outcome State Fault Refusal := .next (s.sbc (.longX a))

/-- AND, DP_X_IND (42_alu.md R218, 40_addressing.md R162). -/
def execAndDpXInd (dp : Byte) (s : State) : Host.Outcome State Fault Refusal := .next (s.alu aluAnd 0 (.dpXInd dp))

/-- AND, SR (42_alu.md R218, 40_addressing.md R172). -/
def execAndSr (sr : Byte) (s : State) : Host.Outcome State Fault Refusal := .next (s.alu aluAnd 0 (.sr sr))

/-- AND, DP (42_alu.md R218, 40_addressing.md R154). -/
def execAndDp (dp : Byte) (s : State) : Host.Outcome State Fault Refusal := .next (s.alu aluAnd 0 (.dp dp))

/-- AND, DP_IND_LONG (42_alu.md R218, 40_addressing.md R156). -/
def execAndDpIndLong (dp : Byte) (s : State) : Host.Outcome State Fault Refusal :=
  .next (s.alu aluAnd 0 (.dpIndLong dp))

/-- AND, IMM_M (42_alu.md R218, 40_addressing.md R151). -/
def execAndImmM (imm : Word) (s : State) : Host.Outcome State Fault Refusal := .next (s.aluImm aluAnd 0 imm)

/-- AND, ABS (42_alu.md R218, 40_addressing.md R152). -/
def execAndAbs (a : Word) (s : State) : Host.Outcome State Fault Refusal := .next (s.alu aluAnd 0 (.abs a))

/-- AND, LONG (42_alu.md R218, 40_addressing.md R153). -/
def execAndLong (a : Addr) (s : State) : Host.Outcome State Fault Refusal := .next (s.alu aluAnd 0 (.long a))

/-- AND, DP_IND_Y (42_alu.md R218, 40_addressing.md R163). -/
def execAndDpIndY (dp : Byte) (s : State) : Host.Outcome State Fault Refusal := .next (s.alu aluAnd 0 (.dpIndY dp))

/-- AND, DP_IND (42_alu.md R218, 40_addressing.md R155). -/
def execAndDpInd (dp : Byte) (s : State) : Host.Outcome State Fault Refusal := .next (s.alu aluAnd 0 (.dpInd dp))

/-- AND, SR_IND_Y (42_alu.md R218, 40_addressing.md R173). -/
def execAndSrIndY (sr : Byte) (s : State) : Host.Outcome State Fault Refusal := .next (s.alu aluAnd 0 (.srIndY sr))

/-- AND, DP_X (42_alu.md R218, 40_addressing.md R160). -/
def execAndDpX (dp : Byte) (s : State) : Host.Outcome State Fault Refusal := .next (s.alu aluAnd 0 (.dpX dp))

/-- AND, DP_IND_LONG_Y (42_alu.md R218, 40_addressing.md R164). -/
def execAndDpIndLongY (dp : Byte) (s : State) : Host.Outcome State Fault Refusal :=
  .next (s.alu aluAnd 0 (.dpIndLongY dp))

/-- AND, ABS_Y (42_alu.md R218, 40_addressing.md R159). -/
def execAndAbsY (a : Word) (s : State) : Host.Outcome State Fault Refusal := .next (s.alu aluAnd 0 (.absY a))

/-- AND, ABS_X (42_alu.md R218, 40_addressing.md R157). -/
def execAndAbsX (a : Word) (s : State) : Host.Outcome State Fault Refusal := .next (s.alu aluAnd 0 (.absX a))

/-- AND, LONG_X (42_alu.md R218, 40_addressing.md R158). -/
def execAndLongX (a : Addr) (s : State) : Host.Outcome State Fault Refusal := .next (s.alu aluAnd 0 (.longX a))

/-- ORA, DP_X_IND (42_alu.md R219, 40_addressing.md R162). -/
def execOraDpXInd (dp : Byte) (s : State) : Host.Outcome State Fault Refusal := .next (s.alu aluOra 0 (.dpXInd dp))

/-- ORA, SR (42_alu.md R219, 40_addressing.md R172). -/
def execOraSr (sr : Byte) (s : State) : Host.Outcome State Fault Refusal := .next (s.alu aluOra 0 (.sr sr))

/-- ORA, DP (42_alu.md R219, 40_addressing.md R154). -/
def execOraDp (dp : Byte) (s : State) : Host.Outcome State Fault Refusal := .next (s.alu aluOra 0 (.dp dp))

/-- ORA, DP_IND_LONG (42_alu.md R219, 40_addressing.md R156). -/
def execOraDpIndLong (dp : Byte) (s : State) : Host.Outcome State Fault Refusal :=
  .next (s.alu aluOra 0 (.dpIndLong dp))

/-- ORA, IMM_M (42_alu.md R219, 40_addressing.md R151). -/
def execOraImmM (imm : Word) (s : State) : Host.Outcome State Fault Refusal := .next (s.aluImm aluOra 0 imm)

/-- ORA, ABS (42_alu.md R219, 40_addressing.md R152). -/
def execOraAbs (a : Word) (s : State) : Host.Outcome State Fault Refusal := .next (s.alu aluOra 0 (.abs a))

/-- ORA, LONG (42_alu.md R219, 40_addressing.md R153). -/
def execOraLong (a : Addr) (s : State) : Host.Outcome State Fault Refusal := .next (s.alu aluOra 0 (.long a))

/-- ORA, DP_IND_Y (42_alu.md R219, 40_addressing.md R163). -/
def execOraDpIndY (dp : Byte) (s : State) : Host.Outcome State Fault Refusal := .next (s.alu aluOra 0 (.dpIndY dp))

/-- ORA, DP_IND (42_alu.md R219, 40_addressing.md R155). -/
def execOraDpInd (dp : Byte) (s : State) : Host.Outcome State Fault Refusal := .next (s.alu aluOra 0 (.dpInd dp))

/-- ORA, SR_IND_Y (42_alu.md R219, 40_addressing.md R173). -/
def execOraSrIndY (sr : Byte) (s : State) : Host.Outcome State Fault Refusal := .next (s.alu aluOra 0 (.srIndY sr))

/-- ORA, DP_X (42_alu.md R219, 40_addressing.md R160). -/
def execOraDpX (dp : Byte) (s : State) : Host.Outcome State Fault Refusal := .next (s.alu aluOra 0 (.dpX dp))

/-- ORA, DP_IND_LONG_Y (42_alu.md R219, 40_addressing.md R164). -/
def execOraDpIndLongY (dp : Byte) (s : State) : Host.Outcome State Fault Refusal :=
  .next (s.alu aluOra 0 (.dpIndLongY dp))

/-- ORA, ABS_Y (42_alu.md R219, 40_addressing.md R159). -/
def execOraAbsY (a : Word) (s : State) : Host.Outcome State Fault Refusal := .next (s.alu aluOra 0 (.absY a))

/-- ORA, ABS_X (42_alu.md R219, 40_addressing.md R157). -/
def execOraAbsX (a : Word) (s : State) : Host.Outcome State Fault Refusal := .next (s.alu aluOra 0 (.absX a))

/-- ORA, LONG_X (42_alu.md R219, 40_addressing.md R158). -/
def execOraLongX (a : Addr) (s : State) : Host.Outcome State Fault Refusal := .next (s.alu aluOra 0 (.longX a))

/-- EOR, DP_X_IND (42_alu.md R220, 40_addressing.md R162). -/
def execEorDpXInd (dp : Byte) (s : State) : Host.Outcome State Fault Refusal := .next (s.alu aluEor 0 (.dpXInd dp))

/-- EOR, SR (42_alu.md R220, 40_addressing.md R172). -/
def execEorSr (sr : Byte) (s : State) : Host.Outcome State Fault Refusal := .next (s.alu aluEor 0 (.sr sr))

/-- EOR, DP (42_alu.md R220, 40_addressing.md R154). -/
def execEorDp (dp : Byte) (s : State) : Host.Outcome State Fault Refusal := .next (s.alu aluEor 0 (.dp dp))

/-- EOR, DP_IND_LONG (42_alu.md R220, 40_addressing.md R156). -/
def execEorDpIndLong (dp : Byte) (s : State) : Host.Outcome State Fault Refusal :=
  .next (s.alu aluEor 0 (.dpIndLong dp))

/-- EOR, IMM_M (42_alu.md R220, 40_addressing.md R151). -/
def execEorImmM (imm : Word) (s : State) : Host.Outcome State Fault Refusal := .next (s.aluImm aluEor 0 imm)

/-- EOR, ABS (42_alu.md R220, 40_addressing.md R152). -/
def execEorAbs (a : Word) (s : State) : Host.Outcome State Fault Refusal := .next (s.alu aluEor 0 (.abs a))

/-- EOR, LONG (42_alu.md R220, 40_addressing.md R153). -/
def execEorLong (a : Addr) (s : State) : Host.Outcome State Fault Refusal := .next (s.alu aluEor 0 (.long a))

/-- EOR, DP_IND_Y (42_alu.md R220, 40_addressing.md R163). -/
def execEorDpIndY (dp : Byte) (s : State) : Host.Outcome State Fault Refusal := .next (s.alu aluEor 0 (.dpIndY dp))

/-- EOR, DP_IND (42_alu.md R220, 40_addressing.md R155). -/
def execEorDpInd (dp : Byte) (s : State) : Host.Outcome State Fault Refusal := .next (s.alu aluEor 0 (.dpInd dp))

/-- EOR, SR_IND_Y (42_alu.md R220, 40_addressing.md R173). -/
def execEorSrIndY (sr : Byte) (s : State) : Host.Outcome State Fault Refusal := .next (s.alu aluEor 0 (.srIndY sr))

/-- EOR, DP_X (42_alu.md R220, 40_addressing.md R160). -/
def execEorDpX (dp : Byte) (s : State) : Host.Outcome State Fault Refusal := .next (s.alu aluEor 0 (.dpX dp))

/-- EOR, DP_IND_LONG_Y (42_alu.md R220, 40_addressing.md R164). -/
def execEorDpIndLongY (dp : Byte) (s : State) : Host.Outcome State Fault Refusal :=
  .next (s.alu aluEor 0 (.dpIndLongY dp))

/-- EOR, ABS_Y (42_alu.md R220, 40_addressing.md R159). -/
def execEorAbsY (a : Word) (s : State) : Host.Outcome State Fault Refusal := .next (s.alu aluEor 0 (.absY a))

/-- EOR, ABS_X (42_alu.md R220, 40_addressing.md R157). -/
def execEorAbsX (a : Word) (s : State) : Host.Outcome State Fault Refusal := .next (s.alu aluEor 0 (.absX a))

/-- EOR, LONG_X (42_alu.md R220, 40_addressing.md R158). -/
def execEorLongX (a : Addr) (s : State) : Host.Outcome State Fault Refusal := .next (s.alu aluEor 0 (.longX a))

/-- CMP, DP_X_IND (42_alu.md R221, 40_addressing.md R162). -/
def execCmpDpXInd (dp : Byte) (s : State) : Host.Outcome State Fault Refusal := .next (s.cmp (.dpXInd dp))

/-- CMP, SR (42_alu.md R221, 40_addressing.md R172). -/
def execCmpSr (sr : Byte) (s : State) : Host.Outcome State Fault Refusal := .next (s.cmp (.sr sr))

/-- CMP, DP (42_alu.md R221, 40_addressing.md R154). -/
def execCmpDp (dp : Byte) (s : State) : Host.Outcome State Fault Refusal := .next (s.cmp (.dp dp))

/-- CMP, DP_IND_LONG (42_alu.md R221, 40_addressing.md R156). -/
def execCmpDpIndLong (dp : Byte) (s : State) : Host.Outcome State Fault Refusal := .next (s.cmp (.dpIndLong dp))

/-- CMP, IMM_M (42_alu.md R221, 40_addressing.md R151). -/
def execCmpImmM (imm : Word) (s : State) : Host.Outcome State Fault Refusal :=
  .next (s.immediate imm s.regs.p.widthM 0 Regs.cmpA)

/-- CMP, ABS (42_alu.md R221, 40_addressing.md R152). -/
def execCmpAbs (a : Word) (s : State) : Host.Outcome State Fault Refusal := .next (s.cmp (.abs a))

/-- CMP, LONG (42_alu.md R221, 40_addressing.md R153). -/
def execCmpLong (a : Addr) (s : State) : Host.Outcome State Fault Refusal := .next (s.cmp (.long a))

/-- CMP, DP_IND_Y (42_alu.md R221, 40_addressing.md R163). -/
def execCmpDpIndY (dp : Byte) (s : State) : Host.Outcome State Fault Refusal := .next (s.cmp (.dpIndY dp))

/-- CMP, DP_IND (42_alu.md R221, 40_addressing.md R155). -/
def execCmpDpInd (dp : Byte) (s : State) : Host.Outcome State Fault Refusal := .next (s.cmp (.dpInd dp))

/-- CMP, SR_IND_Y (42_alu.md R221, 40_addressing.md R173). -/
def execCmpSrIndY (sr : Byte) (s : State) : Host.Outcome State Fault Refusal := .next (s.cmp (.srIndY sr))

/-- CMP, DP_X (42_alu.md R221, 40_addressing.md R160). -/
def execCmpDpX (dp : Byte) (s : State) : Host.Outcome State Fault Refusal := .next (s.cmp (.dpX dp))

/-- CMP, DP_IND_LONG_Y (42_alu.md R221, 40_addressing.md R164). -/
def execCmpDpIndLongY (dp : Byte) (s : State) : Host.Outcome State Fault Refusal := .next (s.cmp (.dpIndLongY dp))

/-- CMP, ABS_Y (42_alu.md R221, 40_addressing.md R159). -/
def execCmpAbsY (a : Word) (s : State) : Host.Outcome State Fault Refusal := .next (s.cmp (.absY a))

/-- CMP, ABS_X (42_alu.md R221, 40_addressing.md R157). -/
def execCmpAbsX (a : Word) (s : State) : Host.Outcome State Fault Refusal := .next (s.cmp (.absX a))

/-- CMP, LONG_X (42_alu.md R221, 40_addressing.md R158). -/
def execCmpLongX (a : Addr) (s : State) : Host.Outcome State Fault Refusal := .next (s.cmp (.longX a))

/-- CPX, IMM_X (42_alu.md R222, 40_addressing.md R151). -/
def execCpxImmX (imm : Word) (s : State) : Host.Outcome State Fault Refusal :=
  .next (s.immediate imm s.regs.p.widthX 0 Regs.cmpX)

/-- CPX, DP (42_alu.md R222, 40_addressing.md R154). -/
def execCpxDp (dp : Byte) (s : State) : Host.Outcome State Fault Refusal := .next (s.cpx (.dp dp))

/-- CPX, ABS (42_alu.md R222, 40_addressing.md R152). -/
def execCpxAbs (a : Word) (s : State) : Host.Outcome State Fault Refusal := .next (s.cpx (.abs a))

/-- CPY, IMM_X (42_alu.md R223, 40_addressing.md R151). -/
def execCpyImmX (imm : Word) (s : State) : Host.Outcome State Fault Refusal :=
  .next (s.immediate imm s.regs.p.widthX 0 Regs.cmpY)

/-- CPY, DP (42_alu.md R223, 40_addressing.md R154). -/
def execCpyDp (dp : Byte) (s : State) : Host.Outcome State Fault Refusal := .next (s.cpy (.dp dp))

/-- CPY, ABS (42_alu.md R223, 40_addressing.md R152). -/
def execCpyAbs (a : Word) (s : State) : Host.Outcome State Fault Refusal := .next (s.cpy (.abs a))

/-- BIT, DP (42_alu.md R224, 40_addressing.md R154). -/
def execBitDp (dp : Byte) (s : State) : Host.Outcome State Fault Refusal := .next (s.bit (.dp dp))

/-- BIT, ABS (42_alu.md R224, 40_addressing.md R152). -/
def execBitAbs (a : Word) (s : State) : Host.Outcome State Fault Refusal := .next (s.bit (.abs a))

/-- BIT, DP_X (42_alu.md R224, 40_addressing.md R160). -/
def execBitDpX (dp : Byte) (s : State) : Host.Outcome State Fault Refusal := .next (s.bit (.dpX dp))

/-- BIT, ABS_X (42_alu.md R224, 40_addressing.md R157). -/
def execBitAbsX (a : Word) (s : State) : Host.Outcome State Fault Refusal := .next (s.bit (.absX a))

/-- BIT, IMM_M (42_alu.md R224, 40_addressing.md R151). -/
def execBitImmM (imm : Word) (s : State) : Host.Outcome State Fault Refusal :=
  .next (s.immediate imm s.regs.p.widthM 0 Regs.bitImm)

end Sys2Proof.Machine
end

