-- ==== Sys2Proof/Machine/BlockMove.lean ====
section
/-! DEFINITION. Block moves (48_block_move.md).
A meaning starts after the fetch: PC is at the next instruction, the flags are those of the fetch. -/

namespace Sys2Proof.Machine

/-- One iteration of a block move, X and Y stepped by `delta`; PC holds the address of the next instruction
(48_block_move.md R360). -/
def State.blockMove (dst src : Byte) (delta : Word) (s : State) : State :=
  let v := s.busRead (joinAddr src s.regs.x) .data
  let s1 := v.2.busWrite (joinAddr dst s.regs.y) .data v.1
  let count := s.regs.a - 1
  let w := s.regs.p.widthX
  (s1.mapRegs fun r =>
    { r with
      x := w.take (r.x + delta)
      y := w.take (r.y + delta)
      a := count
      pc := if count = 0xFFFF then r.pc else r.pc - 3
      dbr := if count = 0xFFFF then dst else r.dbr }).settle 7 3 s

/-- MVN, BLOCK (48_block_move.md R361, 40_addressing.md R174). -/
def execMvn (dst : Byte) (src : Byte) (s : State) : Host.Outcome State Fault Refusal := .next (s.blockMove dst src 1)

/-- MVP, BLOCK (48_block_move.md R362, 40_addressing.md R174). -/
def execMvp (dst : Byte) (src : Byte) (s : State) : Host.Outcome State Fault Refusal :=
  .next (s.blockMove dst src (-1))

end Sys2Proof.Machine
end

