-- ==== Sys2Proof/Machine/FlagMode.lean ====
section
/-! DEFINITION. Flags, REP and SEP, the no-operations, XCE (47_flags_mode.md).
A meaning starts after the fetch: PC is at the next instruction, the flags are those of the fetch. -/

namespace Sys2Proof.Machine

/-- An instruction of one byte that changes P only (47_flags_mode.md R349). -/
def State.mapStatus (f : Status → Status) (s : State) : State := s.implied 2 fun r => { r with p := f r.p }

/-- REP and SEP: P changed as a whole byte, then `Normalize()` (47_flags_mode.md R347, R348). -/
def State.mapStatusByte (f : Status → Status) (s : State) : State :=
  (s.mapRegs fun r => { r with p := f r.p }.normalize).settle 3 2 s

/-- C and E exchanged, then `Normalize()` (47_flags_mode.md R352). -/
def Regs.exchangeCE (r : Regs) : Regs := { r with p := { r.p with c := r.e }, e := r.p.c }.normalize

/-- CLC (47_flags_mode.md R340). -/
def execClc (s : State) : Host.Outcome State Fault Refusal := .next (s.mapStatus fun p => { p with c := false })

/-- SEC (47_flags_mode.md R341). -/
def execSec (s : State) : Host.Outcome State Fault Refusal := .next (s.mapStatus fun p => { p with c := true })

/-- CLI (47_flags_mode.md R342). -/
def execCli (s : State) : Host.Outcome State Fault Refusal := .next (s.mapStatus fun p => { p with i := false })

/-- SEI (47_flags_mode.md R343). -/
def execSei (s : State) : Host.Outcome State Fault Refusal := .next (s.mapStatus fun p => { p with i := true })

/-- CLD (47_flags_mode.md R344). -/
def execCld (s : State) : Host.Outcome State Fault Refusal := .next (s.mapStatus fun p => { p with d := false })

/-- SED (47_flags_mode.md R345). -/
def execSed (s : State) : Host.Outcome State Fault Refusal := .next (s.mapStatus fun p => { p with d := true })

/-- CLV (47_flags_mode.md R346). -/
def execClv (s : State) : Host.Outcome State Fault Refusal := .next (s.mapStatus fun p => { p with v := false })

/-- REP, IMM8 (47_flags_mode.md R347, 40_addressing.md R151). -/
def execRep (mask : Byte) (s : State) : Host.Outcome State Fault Refusal :=
  .next (s.mapStatusByte fun p => p.clearMask mask)

/-- SEP, IMM8 (47_flags_mode.md R348, 40_addressing.md R151). -/
def execSep (mask : Byte) (s : State) : Host.Outcome State Fault Refusal :=
  .next (s.mapStatusByte fun p => p.setMask mask)

/-- NOP (47_flags_mode.md R350). -/
def execNop (s : State) : Host.Outcome State Fault Refusal := .next (s.implied 2 id)

/-- WDM, SIG (47_flags_mode.md R351, 40_addressing.md R151). -/
def execWdm (_sig : Byte) (s : State) : Host.Outcome State Fault Refusal := .next (s.settle 2 2 s)

/-- XCE (47_flags_mode.md R352). -/
def execXce (s : State) : Host.Outcome State Fault Refusal := .next (s.implied 2 Regs.exchangeCE)

end Sys2Proof.Machine
end

