-- ==== Sys2Proof/Machine/Flow.lean ====
section
/-! DEFINITION. Branches, jumps, calls and returns (46_flow.md).
A meaning starts after the fetch: PC is at the next instruction, the flags are those of the fetch. -/

namespace Sys2Proof.Machine

/-- The `c` of 70_reset_and_hazards.md R463: the target lies in another page, in emulation mode. -/
def Regs.branchPenalty (r : Regs) (target : Word) : Nat :=
  if r.e && highByte target != highByte r.pc then 1 else 0

/-- A relative branch; PC holds the address of the next instruction (46_flow.md R310). -/
def State.branch (cond : Bool) (disp : Byte) (s : State) : State :=
  let target := s.regs.pc + signExt disp
  if cond then
    (s.mapRegs fun r => { r with pc := target }).settle (3 + s.regs.branchPenalty target) 2 s
  else s.settle 2 2 s

/-- A jump in the program bank, where `t` is the target and the state after its pointer reads (46_flow.md R321). -/
def State.jump (n : Nat) (t : Word × State) (s : State) : State :=
  (t.2.mapRegs fun r => { r with pc := t.1 }).settle n 3 s

/-- A jump to any bank (46_flow.md R322). -/
def State.jumpLong (n len : Nat) (t : Addr × State) (s : State) : State :=
  (t.2.mapRegs fun r => { r with pc := offsetOf t.1, pbr := bankOf t.1 }).settle n len s

/-- The pushes of JSR: the address of its last operand byte (46_flow.md R323). -/
def State.pushReturn (full : Bool) (s : State) : State := s.push16 full (s.regs.pc - 1)

/-- JSR to `a` (46_flow.md R323). -/
def State.call (a : Word) (s : State) : State :=
  let full := s.quirk .jsr
  (((s.pushReturn full).mapRegs fun r => { r with pc := a }).endQuirk full).settle 6 3 s

/-- JSR through a pointer, which is read after the pushes (46_flow.md R323). -/
def State.callIndX (a : Word) (s : State) : State :=
  let full := s.quirk .jsr
  let t := (s.pushReturn full).targetIndX a
  ((t.2.mapRegs fun r => { r with pc := t.1 }).endQuirk full).settle 8 3 s

/-- JSL (46_flow.md R324). -/
def State.callLong (t : Addr) (s : State) : State :=
  let full := s.quirk .jsl
  let s1 := (s.push8 full s.regs.pbr).pushReturn full
  ((s1.mapRegs fun r => { r with pc := offsetOf t, pbr := bankOf t }).endQuirk full).settle 8 4 s

/-- RTS (46_flow.md R325). -/
def State.returnShort (s : State) : State :=
  let full := s.quirk .rts
  let v := s.pull16 full
  ((v.2.mapRegs fun r => { r with pc := v.1 + 1 }).endQuirk full).settle 6 1 s

/-- RTL (46_flow.md R326). -/
def State.returnLong (s : State) : State :=
  let full := s.quirk .rtl
  let v := s.pull16 full
  let b := v.2.pull8 full
  ((b.2.mapRegs fun r => { r with pc := v.1 + 1, pbr := b.1 }).endQuirk full).settle 6 1 s

/-- BCC, REL8 (46_flow.md R311, 40_addressing.md R166). -/
def execBcc (disp : Byte) (s : State) : Host.Outcome State Fault Refusal := .next (s.branch (!s.regs.p.c) disp)

/-- BCS, REL8 (46_flow.md R312, 40_addressing.md R166). -/
def execBcs (disp : Byte) (s : State) : Host.Outcome State Fault Refusal := .next (s.branch s.regs.p.c disp)

/-- BEQ, REL8 (46_flow.md R313, 40_addressing.md R166). -/
def execBeq (disp : Byte) (s : State) : Host.Outcome State Fault Refusal := .next (s.branch s.regs.p.z disp)

/-- BNE, REL8 (46_flow.md R314, 40_addressing.md R166). -/
def execBne (disp : Byte) (s : State) : Host.Outcome State Fault Refusal := .next (s.branch (!s.regs.p.z) disp)

/-- BMI, REL8 (46_flow.md R315, 40_addressing.md R166). -/
def execBmi (disp : Byte) (s : State) : Host.Outcome State Fault Refusal := .next (s.branch s.regs.p.n disp)

/-- BPL, REL8 (46_flow.md R316, 40_addressing.md R166). -/
def execBpl (disp : Byte) (s : State) : Host.Outcome State Fault Refusal := .next (s.branch (!s.regs.p.n) disp)

/-- BVC, REL8 (46_flow.md R317, 40_addressing.md R166). -/
def execBvc (disp : Byte) (s : State) : Host.Outcome State Fault Refusal := .next (s.branch (!s.regs.p.v) disp)

/-- BVS, REL8 (46_flow.md R318, 40_addressing.md R166). -/
def execBvs (disp : Byte) (s : State) : Host.Outcome State Fault Refusal := .next (s.branch s.regs.p.v disp)

/-- BRA, REL8 (46_flow.md R319, 40_addressing.md R166). -/
def execBra (disp : Byte) (s : State) : Host.Outcome State Fault Refusal := .next (s.branch true disp)

/-- BRL, REL16 (46_flow.md R320, 40_addressing.md R167). -/
def execBrl (disp : Word) (s : State) : Host.Outcome State Fault Refusal :=
  .next ((s.mapRegs fun r => { r with pc := r.pc + disp }).settle 4 3 s)

/-- JMP, PC_ABS (46_flow.md R321, 40_addressing.md R168). -/
def execJmpPcAbs (a : Word) (s : State) : Host.Outcome State Fault Refusal := .next (s.jump 3 (a, s))

/-- JMP, PC_IND (46_flow.md R321, 40_addressing.md R165). -/
def execJmpPcInd (a : Word) (s : State) : Host.Outcome State Fault Refusal := .next (s.jump 5 (s.targetInd a))

/-- JMP, PC_IND_X (46_flow.md R321, 40_addressing.md R169). -/
def execJmpPcIndX (a : Word) (s : State) : Host.Outcome State Fault Refusal := .next (s.jump 6 (s.targetIndX a))

/-- JML, PC_LONG (46_flow.md R322, 40_addressing.md R170). -/
def execJmlPcLong (a : Addr) (s : State) : Host.Outcome State Fault Refusal := .next (s.jumpLong 4 4 (a, s))

/-- JML, PC_IND_LONG (46_flow.md R322, 40_addressing.md R171). -/
def execJmlPcIndLong (a : Word) (s : State) : Host.Outcome State Fault Refusal :=
  .next (s.jumpLong 6 3 (s.targetIndLong a))

/-- JSR, PC_ABS (46_flow.md R323, 40_addressing.md R168). -/
def execJsrPcAbs (a : Word) (s : State) : Host.Outcome State Fault Refusal := .next (s.call a)

/-- JSR, PC_IND_X (46_flow.md R323, 40_addressing.md R169). -/
def execJsrPcIndX (a : Word) (s : State) : Host.Outcome State Fault Refusal := .next (s.callIndX a)

/-- JSL, PC_LONG (46_flow.md R324, 40_addressing.md R170). -/
def execJsl (a : Addr) (s : State) : Host.Outcome State Fault Refusal := .next (s.callLong a)

/-- RTS (46_flow.md R325). -/
def execRts (s : State) : Host.Outcome State Fault Refusal := .next (s.returnShort)

/-- RTL (46_flow.md R326). -/
def execRtl (s : State) : Host.Outcome State Fault Refusal := .next (s.returnLong)

end Sys2Proof.Machine
end

