-- ==== Sys2Proof/Machine/Load.lean ====
section
/-! DEFINITION. Loads and stores (41_load_store.md).
A meaning starts after the fetch: PC is at the next instruction, the flags are those of the fetch. -/

namespace Sys2Proof.Machine

/-- LDA (41_load_store.md R191). -/
def State.lda (md : Mode) (s : State) : State :=
  s.readOperand md s.regs.p.widthM 0 fun v r => r.loadA r.p.widthM v

/-- LDX (41_load_store.md R192). -/
def State.ldx (md : Mode) (s : State) : State := s.readOperand md s.regs.p.widthX 0 fun v r => r.loadX v

/-- LDY (41_load_store.md R193). -/
def State.ldy (md : Mode) (s : State) : State := s.readOperand md s.regs.p.widthX 0 fun v r => r.loadY v

/-- STA (41_load_store.md R194). -/
def State.sta (md : Mode) (s : State) : State := s.store md s.regs.p.widthM s.regs.a

/-- STX (41_load_store.md R195). -/
def State.stx (md : Mode) (s : State) : State := s.store md s.regs.p.widthX s.regs.x

/-- STY (41_load_store.md R196). -/
def State.sty (md : Mode) (s : State) : State := s.store md s.regs.p.widthX s.regs.y

/-- STZ (41_load_store.md R197). -/
def State.stz (md : Mode) (s : State) : State := s.store md s.regs.p.widthM 0x0000

/-- LDA, DP_X_IND (41_load_store.md R191, 40_addressing.md R162). -/
def execLdaDpXInd (dp : Byte) (s : State) : Host.Outcome State Fault Refusal := .next (s.lda (.dpXInd dp))

/-- LDA, SR (41_load_store.md R191, 40_addressing.md R172). -/
def execLdaSr (sr : Byte) (s : State) : Host.Outcome State Fault Refusal := .next (s.lda (.sr sr))

/-- LDA, DP (41_load_store.md R191, 40_addressing.md R154). -/
def execLdaDp (dp : Byte) (s : State) : Host.Outcome State Fault Refusal := .next (s.lda (.dp dp))

/-- LDA, DP_IND_LONG (41_load_store.md R191, 40_addressing.md R156). -/
def execLdaDpIndLong (dp : Byte) (s : State) : Host.Outcome State Fault Refusal := .next (s.lda (.dpIndLong dp))

/-- LDA, IMM_M (41_load_store.md R191, 40_addressing.md R151). -/
def execLdaImmM (imm : Word) (s : State) : Host.Outcome State Fault Refusal :=
  .next (s.immediate imm s.regs.p.widthM 0 fun v r => r.loadA r.p.widthM v)

/-- LDA, ABS (41_load_store.md R191, 40_addressing.md R152). -/
def execLdaAbs (a : Word) (s : State) : Host.Outcome State Fault Refusal := .next (s.lda (.abs a))

/-- LDA, LONG (41_load_store.md R191, 40_addressing.md R153). -/
def execLdaLong (a : Addr) (s : State) : Host.Outcome State Fault Refusal := .next (s.lda (.long a))

/-- LDA, DP_IND_Y (41_load_store.md R191, 40_addressing.md R163). -/
def execLdaDpIndY (dp : Byte) (s : State) : Host.Outcome State Fault Refusal := .next (s.lda (.dpIndY dp))

/-- LDA, DP_IND (41_load_store.md R191, 40_addressing.md R155). -/
def execLdaDpInd (dp : Byte) (s : State) : Host.Outcome State Fault Refusal := .next (s.lda (.dpInd dp))

/-- LDA, SR_IND_Y (41_load_store.md R191, 40_addressing.md R173). -/
def execLdaSrIndY (sr : Byte) (s : State) : Host.Outcome State Fault Refusal := .next (s.lda (.srIndY sr))

/-- LDA, DP_X (41_load_store.md R191, 40_addressing.md R160). -/
def execLdaDpX (dp : Byte) (s : State) : Host.Outcome State Fault Refusal := .next (s.lda (.dpX dp))

/-- LDA, DP_IND_LONG_Y (41_load_store.md R191, 40_addressing.md R164). -/
def execLdaDpIndLongY (dp : Byte) (s : State) : Host.Outcome State Fault Refusal := .next (s.lda (.dpIndLongY dp))

/-- LDA, ABS_Y (41_load_store.md R191, 40_addressing.md R159). -/
def execLdaAbsY (a : Word) (s : State) : Host.Outcome State Fault Refusal := .next (s.lda (.absY a))

/-- LDA, ABS_X (41_load_store.md R191, 40_addressing.md R157). -/
def execLdaAbsX (a : Word) (s : State) : Host.Outcome State Fault Refusal := .next (s.lda (.absX a))

/-- LDA, LONG_X (41_load_store.md R191, 40_addressing.md R158). -/
def execLdaLongX (a : Addr) (s : State) : Host.Outcome State Fault Refusal := .next (s.lda (.longX a))

/-- LDX, IMM_X (41_load_store.md R192, 40_addressing.md R151). -/
def execLdxImmX (imm : Word) (s : State) : Host.Outcome State Fault Refusal :=
  .next (s.immediate imm s.regs.p.widthX 0 fun v r => r.loadX v)

/-- LDX, DP (41_load_store.md R192, 40_addressing.md R154). -/
def execLdxDp (dp : Byte) (s : State) : Host.Outcome State Fault Refusal := .next (s.ldx (.dp dp))

/-- LDX, ABS (41_load_store.md R192, 40_addressing.md R152). -/
def execLdxAbs (a : Word) (s : State) : Host.Outcome State Fault Refusal := .next (s.ldx (.abs a))

/-- LDX, DP_Y (41_load_store.md R192, 40_addressing.md R161). -/
def execLdxDpY (dp : Byte) (s : State) : Host.Outcome State Fault Refusal := .next (s.ldx (.dpY dp))

/-- LDX, ABS_Y (41_load_store.md R192, 40_addressing.md R159). -/
def execLdxAbsY (a : Word) (s : State) : Host.Outcome State Fault Refusal := .next (s.ldx (.absY a))

/-- LDY, IMM_X (41_load_store.md R193, 40_addressing.md R151). -/
def execLdyImmX (imm : Word) (s : State) : Host.Outcome State Fault Refusal :=
  .next (s.immediate imm s.regs.p.widthX 0 fun v r => r.loadY v)

/-- LDY, DP (41_load_store.md R193, 40_addressing.md R154). -/
def execLdyDp (dp : Byte) (s : State) : Host.Outcome State Fault Refusal := .next (s.ldy (.dp dp))

/-- LDY, ABS (41_load_store.md R193, 40_addressing.md R152). -/
def execLdyAbs (a : Word) (s : State) : Host.Outcome State Fault Refusal := .next (s.ldy (.abs a))

/-- LDY, DP_X (41_load_store.md R193, 40_addressing.md R160). -/
def execLdyDpX (dp : Byte) (s : State) : Host.Outcome State Fault Refusal := .next (s.ldy (.dpX dp))

/-- LDY, ABS_X (41_load_store.md R193, 40_addressing.md R157). -/
def execLdyAbsX (a : Word) (s : State) : Host.Outcome State Fault Refusal := .next (s.ldy (.absX a))

/-- STA, DP_X_IND (41_load_store.md R194, 40_addressing.md R162). -/
def execStaDpXInd (dp : Byte) (s : State) : Host.Outcome State Fault Refusal := .next (s.sta (.dpXInd dp))

/-- STA, SR (41_load_store.md R194, 40_addressing.md R172). -/
def execStaSr (sr : Byte) (s : State) : Host.Outcome State Fault Refusal := .next (s.sta (.sr sr))

/-- STA, DP (41_load_store.md R194, 40_addressing.md R154). -/
def execStaDp (dp : Byte) (s : State) : Host.Outcome State Fault Refusal := .next (s.sta (.dp dp))

/-- STA, DP_IND_LONG (41_load_store.md R194, 40_addressing.md R156). -/
def execStaDpIndLong (dp : Byte) (s : State) : Host.Outcome State Fault Refusal := .next (s.sta (.dpIndLong dp))

/-- STA, ABS (41_load_store.md R194, 40_addressing.md R152). -/
def execStaAbs (a : Word) (s : State) : Host.Outcome State Fault Refusal := .next (s.sta (.abs a))

/-- STA, LONG (41_load_store.md R194, 40_addressing.md R153). -/
def execStaLong (a : Addr) (s : State) : Host.Outcome State Fault Refusal := .next (s.sta (.long a))

/-- STA, DP_IND_Y (41_load_store.md R194, 40_addressing.md R163). -/
def execStaDpIndY (dp : Byte) (s : State) : Host.Outcome State Fault Refusal := .next (s.sta (.dpIndY dp))

/-- STA, DP_IND (41_load_store.md R194, 40_addressing.md R155). -/
def execStaDpInd (dp : Byte) (s : State) : Host.Outcome State Fault Refusal := .next (s.sta (.dpInd dp))

/-- STA, SR_IND_Y (41_load_store.md R194, 40_addressing.md R173). -/
def execStaSrIndY (sr : Byte) (s : State) : Host.Outcome State Fault Refusal := .next (s.sta (.srIndY sr))

/-- STA, DP_X (41_load_store.md R194, 40_addressing.md R160). -/
def execStaDpX (dp : Byte) (s : State) : Host.Outcome State Fault Refusal := .next (s.sta (.dpX dp))

/-- STA, DP_IND_LONG_Y (41_load_store.md R194, 40_addressing.md R164). -/
def execStaDpIndLongY (dp : Byte) (s : State) : Host.Outcome State Fault Refusal := .next (s.sta (.dpIndLongY dp))

/-- STA, ABS_Y (41_load_store.md R194, 40_addressing.md R159). -/
def execStaAbsY (a : Word) (s : State) : Host.Outcome State Fault Refusal := .next (s.sta (.absY a))

/-- STA, ABS_X (41_load_store.md R194, 40_addressing.md R157). -/
def execStaAbsX (a : Word) (s : State) : Host.Outcome State Fault Refusal := .next (s.sta (.absX a))

/-- STA, LONG_X (41_load_store.md R194, 40_addressing.md R158). -/
def execStaLongX (a : Addr) (s : State) : Host.Outcome State Fault Refusal := .next (s.sta (.longX a))

/-- STX, DP (41_load_store.md R195, 40_addressing.md R154). -/
def execStxDp (dp : Byte) (s : State) : Host.Outcome State Fault Refusal := .next (s.stx (.dp dp))

/-- STX, ABS (41_load_store.md R195, 40_addressing.md R152). -/
def execStxAbs (a : Word) (s : State) : Host.Outcome State Fault Refusal := .next (s.stx (.abs a))

/-- STX, DP_Y (41_load_store.md R195, 40_addressing.md R161). -/
def execStxDpY (dp : Byte) (s : State) : Host.Outcome State Fault Refusal := .next (s.stx (.dpY dp))

/-- STY, DP (41_load_store.md R196, 40_addressing.md R154). -/
def execStyDp (dp : Byte) (s : State) : Host.Outcome State Fault Refusal := .next (s.sty (.dp dp))

/-- STY, ABS (41_load_store.md R196, 40_addressing.md R152). -/
def execStyAbs (a : Word) (s : State) : Host.Outcome State Fault Refusal := .next (s.sty (.abs a))

/-- STY, DP_X (41_load_store.md R196, 40_addressing.md R160). -/
def execStyDpX (dp : Byte) (s : State) : Host.Outcome State Fault Refusal := .next (s.sty (.dpX dp))

/-- STZ, DP (41_load_store.md R197, 40_addressing.md R154). -/
def execStzDp (dp : Byte) (s : State) : Host.Outcome State Fault Refusal := .next (s.stz (.dp dp))

/-- STZ, DP_X (41_load_store.md R197, 40_addressing.md R160). -/
def execStzDpX (dp : Byte) (s : State) : Host.Outcome State Fault Refusal := .next (s.stz (.dpX dp))

/-- STZ, ABS (41_load_store.md R197, 40_addressing.md R152). -/
def execStzAbs (a : Word) (s : State) : Host.Outcome State Fault Refusal := .next (s.stz (.abs a))

/-- STZ, ABS_X (41_load_store.md R197, 40_addressing.md R157). -/
def execStzAbsX (a : Word) (s : State) : Host.Outcome State Fault Refusal := .next (s.stz (.absX a))

end Sys2Proof.Machine
end

