-- ==== Sys2Proof/Machine/Rmw.lean ====
section
/-! DEFINITION. Shifts, rotates, increments, decrements, test-and-set and test-and-reset (43_rmw.md).
A meaning starts after the fetch: PC is at the next instruction, the flags are those of the fetch. -/

namespace Sys2Proof.Machine

/-- The accumulator form of a read-modify-write operation (43_rmw.md R240). -/
def State.modifyAcc (op : RmwOp) (s : State) : State := s.implied 2 fun r => r.aluA op r.a

/-- X changed at width `wX`, with N and Z (43_rmw.md R249, R251). -/
def State.stepX (delta : Word) (s : State) : State := s.implied 2 fun r => r.loadX (r.x + delta)

/-- Y changed at width `wX`, with N and Z (43_rmw.md R250, R252). -/
def State.stepY (delta : Word) (s : State) : State := s.implied 2 fun r => r.loadY (r.y + delta)

/-- ASL, DP (43_rmw.md R241, 40_addressing.md R154). -/
def execAslDp (dp : Byte) (s : State) : Host.Outcome State Fault Refusal := .next (s.modify (.dp dp) rmwAsl)

/-- ASL, ACC (43_rmw.md R241). -/
def execAslAcc (s : State) : Host.Outcome State Fault Refusal := .next (s.modifyAcc rmwAsl)

/-- ASL, ABS (43_rmw.md R241, 40_addressing.md R152). -/
def execAslAbs (a : Word) (s : State) : Host.Outcome State Fault Refusal := .next (s.modify (.abs a) rmwAsl)

/-- ASL, DP_X (43_rmw.md R241, 40_addressing.md R160). -/
def execAslDpX (dp : Byte) (s : State) : Host.Outcome State Fault Refusal := .next (s.modify (.dpX dp) rmwAsl)

/-- ASL, ABS_X (43_rmw.md R241, 40_addressing.md R157). -/
def execAslAbsX (a : Word) (s : State) : Host.Outcome State Fault Refusal := .next (s.modify (.absX a) rmwAsl)

/-- LSR, DP (43_rmw.md R242, 40_addressing.md R154). -/
def execLsrDp (dp : Byte) (s : State) : Host.Outcome State Fault Refusal := .next (s.modify (.dp dp) rmwLsr)

/-- LSR, ACC (43_rmw.md R242). -/
def execLsrAcc (s : State) : Host.Outcome State Fault Refusal := .next (s.modifyAcc rmwLsr)

/-- LSR, ABS (43_rmw.md R242, 40_addressing.md R152). -/
def execLsrAbs (a : Word) (s : State) : Host.Outcome State Fault Refusal := .next (s.modify (.abs a) rmwLsr)

/-- LSR, DP_X (43_rmw.md R242, 40_addressing.md R160). -/
def execLsrDpX (dp : Byte) (s : State) : Host.Outcome State Fault Refusal := .next (s.modify (.dpX dp) rmwLsr)

/-- LSR, ABS_X (43_rmw.md R242, 40_addressing.md R157). -/
def execLsrAbsX (a : Word) (s : State) : Host.Outcome State Fault Refusal := .next (s.modify (.absX a) rmwLsr)

/-- ROL, DP (43_rmw.md R243, 40_addressing.md R154). -/
def execRolDp (dp : Byte) (s : State) : Host.Outcome State Fault Refusal := .next (s.modify (.dp dp) rmwRol)

/-- ROL, ACC (43_rmw.md R243). -/
def execRolAcc (s : State) : Host.Outcome State Fault Refusal := .next (s.modifyAcc rmwRol)

/-- ROL, ABS (43_rmw.md R243, 40_addressing.md R152). -/
def execRolAbs (a : Word) (s : State) : Host.Outcome State Fault Refusal := .next (s.modify (.abs a) rmwRol)

/-- ROL, DP_X (43_rmw.md R243, 40_addressing.md R160). -/
def execRolDpX (dp : Byte) (s : State) : Host.Outcome State Fault Refusal := .next (s.modify (.dpX dp) rmwRol)

/-- ROL, ABS_X (43_rmw.md R243, 40_addressing.md R157). -/
def execRolAbsX (a : Word) (s : State) : Host.Outcome State Fault Refusal := .next (s.modify (.absX a) rmwRol)

/-- ROR, DP (43_rmw.md R244, 40_addressing.md R154). -/
def execRorDp (dp : Byte) (s : State) : Host.Outcome State Fault Refusal := .next (s.modify (.dp dp) rmwRor)

/-- ROR, ACC (43_rmw.md R244). -/
def execRorAcc (s : State) : Host.Outcome State Fault Refusal := .next (s.modifyAcc rmwRor)

/-- ROR, ABS (43_rmw.md R244, 40_addressing.md R152). -/
def execRorAbs (a : Word) (s : State) : Host.Outcome State Fault Refusal := .next (s.modify (.abs a) rmwRor)

/-- ROR, DP_X (43_rmw.md R244, 40_addressing.md R160). -/
def execRorDpX (dp : Byte) (s : State) : Host.Outcome State Fault Refusal := .next (s.modify (.dpX dp) rmwRor)

/-- ROR, ABS_X (43_rmw.md R244, 40_addressing.md R157). -/
def execRorAbsX (a : Word) (s : State) : Host.Outcome State Fault Refusal := .next (s.modify (.absX a) rmwRor)

/-- INC, ACC (43_rmw.md R245). -/
def execIncAcc (s : State) : Host.Outcome State Fault Refusal := .next (s.modifyAcc rmwInc)

/-- INC, DP (43_rmw.md R245, 40_addressing.md R154). -/
def execIncDp (dp : Byte) (s : State) : Host.Outcome State Fault Refusal := .next (s.modify (.dp dp) rmwInc)

/-- INC, ABS (43_rmw.md R245, 40_addressing.md R152). -/
def execIncAbs (a : Word) (s : State) : Host.Outcome State Fault Refusal := .next (s.modify (.abs a) rmwInc)

/-- INC, DP_X (43_rmw.md R245, 40_addressing.md R160). -/
def execIncDpX (dp : Byte) (s : State) : Host.Outcome State Fault Refusal := .next (s.modify (.dpX dp) rmwInc)

/-- INC, ABS_X (43_rmw.md R245, 40_addressing.md R157). -/
def execIncAbsX (a : Word) (s : State) : Host.Outcome State Fault Refusal := .next (s.modify (.absX a) rmwInc)

/-- DEC, ACC (43_rmw.md R246). -/
def execDecAcc (s : State) : Host.Outcome State Fault Refusal := .next (s.modifyAcc rmwDec)

/-- DEC, DP (43_rmw.md R246, 40_addressing.md R154). -/
def execDecDp (dp : Byte) (s : State) : Host.Outcome State Fault Refusal := .next (s.modify (.dp dp) rmwDec)

/-- DEC, ABS (43_rmw.md R246, 40_addressing.md R152). -/
def execDecAbs (a : Word) (s : State) : Host.Outcome State Fault Refusal := .next (s.modify (.abs a) rmwDec)

/-- DEC, DP_X (43_rmw.md R246, 40_addressing.md R160). -/
def execDecDpX (dp : Byte) (s : State) : Host.Outcome State Fault Refusal := .next (s.modify (.dpX dp) rmwDec)

/-- DEC, ABS_X (43_rmw.md R246, 40_addressing.md R157). -/
def execDecAbsX (a : Word) (s : State) : Host.Outcome State Fault Refusal := .next (s.modify (.absX a) rmwDec)

/-- TSB, DP (43_rmw.md R247, 40_addressing.md R154). -/
def execTsbDp (dp : Byte) (s : State) : Host.Outcome State Fault Refusal := .next (s.modify (.dp dp) rmwTsb)

/-- TSB, ABS (43_rmw.md R247, 40_addressing.md R152). -/
def execTsbAbs (a : Word) (s : State) : Host.Outcome State Fault Refusal := .next (s.modify (.abs a) rmwTsb)

/-- TRB, DP (43_rmw.md R248, 40_addressing.md R154). -/
def execTrbDp (dp : Byte) (s : State) : Host.Outcome State Fault Refusal := .next (s.modify (.dp dp) rmwTrb)

/-- TRB, ABS (43_rmw.md R248, 40_addressing.md R152). -/
def execTrbAbs (a : Word) (s : State) : Host.Outcome State Fault Refusal := .next (s.modify (.abs a) rmwTrb)

/-- INX (43_rmw.md R249). -/
def execInx (s : State) : Host.Outcome State Fault Refusal := .next (s.stepX 1)

/-- INY (43_rmw.md R250). -/
def execIny (s : State) : Host.Outcome State Fault Refusal := .next (s.stepY 1)

/-- DEX (43_rmw.md R251). -/
def execDex (s : State) : Host.Outcome State Fault Refusal := .next (s.stepX (-1))

/-- DEY (43_rmw.md R252). -/
def execDey (s : State) : Host.Outcome State Fault Refusal := .next (s.stepY (-1))

end Sys2Proof.Machine
end

