-- ==== Sys2Proof/Machine/Transfer.lean ====
section
/-! DEFINITION. Register transfers and exchange (44_transfer.md).
A meaning starts after the fetch: PC is at the next instruction, the flags are those of the fetch. -/

namespace Sys2Proof.Machine

/-- A written whole, with 16-bit N and Z (44_transfer.md R269, R271). -/
def Regs.setA16 (r : Regs) (v : Word) : Regs := { r with a := v, p := r.p.setNZ v }

/-- D written whole, with 16-bit N and Z (44_transfer.md R268, 45_stack.md R296). -/
def Regs.setD (r : Regs) (v : Word) : Regs := { r with d := v, p := r.p.setNZ v }

/-- The bytes of A exchanged, N and Z from the new low byte (44_transfer.md R272). -/
def Regs.exchangeA (r : Regs) : Regs :=
  { r with a := joinWord (lowByte r.a) (highByte r.a), p := r.p.setNZ (highByte r.a) }

/-- TAX (44_transfer.md R260). -/
def execTax (s : State) : Host.Outcome State Fault Refusal := .next (s.implied 2 fun r => r.loadX r.a)

/-- TAY (44_transfer.md R261). -/
def execTay (s : State) : Host.Outcome State Fault Refusal := .next (s.implied 2 fun r => r.loadY r.a)

/-- TXA (44_transfer.md R262). -/
def execTxa (s : State) : Host.Outcome State Fault Refusal := .next (s.implied 2 fun r => r.loadA r.p.widthM r.x)

/-- TYA (44_transfer.md R263). -/
def execTya (s : State) : Host.Outcome State Fault Refusal := .next (s.implied 2 fun r => r.loadA r.p.widthM r.y)

/-- TSX (44_transfer.md R264). -/
def execTsx (s : State) : Host.Outcome State Fault Refusal := .next (s.implied 2 fun r => r.loadX r.s)

/-- TXS (44_transfer.md R265). -/
def execTxs (s : State) : Host.Outcome State Fault Refusal := .next (s.implied 2 fun r => r.setS r.x)

/-- TXY (44_transfer.md R266). -/
def execTxy (s : State) : Host.Outcome State Fault Refusal :=
  .next (s.implied 2 fun r => { r with y := r.x, p := r.p.setNZAt r.p.widthX r.x })

/-- TYX (44_transfer.md R267). -/
def execTyx (s : State) : Host.Outcome State Fault Refusal :=
  .next (s.implied 2 fun r => { r with x := r.y, p := r.p.setNZAt r.p.widthX r.y })

/-- TCD (44_transfer.md R268). -/
def execTcd (s : State) : Host.Outcome State Fault Refusal := .next (s.implied 2 fun r => r.setD r.a)

/-- TDC (44_transfer.md R269). -/
def execTdc (s : State) : Host.Outcome State Fault Refusal := .next (s.implied 2 fun r => r.setA16 r.d)

/-- TCS (44_transfer.md R270). -/
def execTcs (s : State) : Host.Outcome State Fault Refusal := .next (s.implied 2 fun r => r.setS r.a)

/-- TSC (44_transfer.md R271). -/
def execTsc (s : State) : Host.Outcome State Fault Refusal := .next (s.implied 2 fun r => r.setA16 r.s)

/-- XBA (44_transfer.md R272). -/
def execXba (s : State) : Host.Outcome State Fault Refusal := .next (s.implied 3 Regs.exchangeA)

end Sys2Proof.Machine
end

