-- ==== Sys2Proof/Machine/Stack.lean ====
section
/-! DEFINITION. Pushes and pulls (45_stack.md).
A meaning starts after the fetch: PC is at the next instruction, the flags are those of the fetch. -/

namespace Sys2Proof.Machine

/-- An instruction of `len` bytes and `n` cycles that pushes a value at width `w` (45_stack.md R280 to R284). -/
def State.pushing (n len : Nat) (u : StackUser) (w : Width) (v : Word) (s : State) : State :=
  ((s.pushAt (s.quirk u) w v).endQuirk (s.quirk u)).settle n len s

/-- An instruction of one byte and `n` cycles that pulls a value at width `w` (45_stack.md R281 to R284). -/
def State.pulling (n : Nat) (u : StackUser) (w : Width) (f : Word → Regs → Regs) (s : State) : State :=
  let v := s.pullAt (s.quirk u) w
  ((v.2.mapRegs (f v.1)).endQuirk (s.quirk u)).settle n 1 s

/-- P from a pulled byte, normalized (45_stack.md R292). -/
def Regs.pullP (v : Word) (r : Regs) : Regs := { r with p := Status.ofByte (lowByte v) }.normalize

/-- DBR from a pulled byte, with 8-bit N and Z (45_stack.md R294). -/
def Regs.pullB (v : Word) (r : Regs) : Regs := { r with dbr := lowByte v, p := r.p.setNZ (lowByte v) }

/-- PEI (45_stack.md R299). -/
def State.pushPointer (dp : Byte) (s : State) : State :=
  let v := s.read16Bank0 (s.regs.dpAddr dp 0)
  ((v.2.pushAt (s.quirk .pei) .w16 v.1).endQuirk (s.quirk .pei)).settle (6 + s.regs.directPenalty) 2 s

/-- PHA (45_stack.md R285). -/
def execPha (s : State) : Host.Outcome State Fault Refusal :=
  .next (s.pushing (3 + s.regs.p.widthM.extra) 1 .pha s.regs.p.widthM s.regs.a)

/-- PLA (45_stack.md R286). -/
def execPla (s : State) : Host.Outcome State Fault Refusal :=
  .next (s.pulling (4 + s.regs.p.widthM.extra) .pla s.regs.p.widthM fun v r => r.loadA r.p.widthM v)

/-- PHX (45_stack.md R287). -/
def execPhx (s : State) : Host.Outcome State Fault Refusal :=
  .next (s.pushing (3 + s.regs.p.widthX.extra) 1 .phx s.regs.p.widthX s.regs.x)

/-- PLX (45_stack.md R288). -/
def execPlx (s : State) : Host.Outcome State Fault Refusal :=
  .next (s.pulling (4 + s.regs.p.widthX.extra) .plx s.regs.p.widthX fun v r => r.loadX v)

/-- PHY (45_stack.md R289). -/
def execPhy (s : State) : Host.Outcome State Fault Refusal :=
  .next (s.pushing (3 + s.regs.p.widthX.extra) 1 .phy s.regs.p.widthX s.regs.y)

/-- PLY (45_stack.md R290). -/
def execPly (s : State) : Host.Outcome State Fault Refusal :=
  .next (s.pulling (4 + s.regs.p.widthX.extra) .ply s.regs.p.widthX fun v r => r.loadY v)

/-- PHP (45_stack.md R291). -/
def execPhp (s : State) : Host.Outcome State Fault Refusal := .next (s.pushing 3 1 .php .w8 (zeroExt s.regs.p.toByte))

/-- PLP (45_stack.md R292). -/
def execPlp (s : State) : Host.Outcome State Fault Refusal := .next (s.pulling 4 .plp .w8 Regs.pullP)

/-- PHB (45_stack.md R293). -/
def execPhb (s : State) : Host.Outcome State Fault Refusal := .next (s.pushing 3 1 .phb .w8 (zeroExt s.regs.dbr))

/-- PLB (45_stack.md R294). -/
def execPlb (s : State) : Host.Outcome State Fault Refusal := .next (s.pulling 4 .plb .w8 Regs.pullB)

/-- PHD (45_stack.md R295). -/
def execPhd (s : State) : Host.Outcome State Fault Refusal := .next (s.pushing 4 1 .phd .w16 s.regs.d)

/-- PLD (45_stack.md R296). -/
def execPld (s : State) : Host.Outcome State Fault Refusal := .next (s.pulling 5 .pld .w16 fun v r => r.setD v)

/-- PHK (45_stack.md R297). -/
def execPhk (s : State) : Host.Outcome State Fault Refusal := .next (s.pushing 3 1 .phk .w8 (zeroExt s.regs.pbr))

/-- PEA, IMM16 (45_stack.md R298, 40_addressing.md R151). -/
def execPea (imm : Word) (s : State) : Host.Outcome State Fault Refusal := .next (s.pushing 5 3 .pea .w16 imm)

/-- PEI, DP_IND (45_stack.md R299, 40_addressing.md R155). -/
def execPei (dp : Byte) (s : State) : Host.Outcome State Fault Refusal := .next (s.pushPointer dp)

/-- PER, REL16 (45_stack.md R300, 40_addressing.md R167). -/
def execPer (disp : Word) (s : State) : Host.Outcome State Fault Refusal :=
  .next (s.pushing 6 3 .per .w16 (s.regs.pc + disp))

end Sys2Proof.Machine
end

