-- ==== Sys2Proof/Machine/System.lean ====
section
/-! DEFINITION. Software interrupts, return from interrupt, WAI, STP (49_system.md).
A meaning starts after the fetch: PC is at the next instruction, the flags are those of the fetch. -/

namespace Sys2Proof.Machine

/-- BRK, SIG (49_system.md R370, 40_addressing.md R151). -/
def execBrk (_sig : Byte) (s : State) : Host.Outcome State Fault Refusal :=
  .next ((s.interruptEntry .brk).settle (7 + s.regs.nativeExtra) 2 s)

/-- COP, SIG (49_system.md R371, 40_addressing.md R151). -/
def execCop (_sig : Byte) (s : State) : Host.Outcome State Fault Refusal :=
  .next ((s.interruptEntry .cop).settle (7 + s.regs.nativeExtra) 2 s)

/-- RTI (49_system.md R372). -/
def execRti (s : State) : Host.Outcome State Fault Refusal :=
  .next ((s.interruptReturn (s.quirk .rti)).settle (6 + s.regs.nativeExtra) 1 s)

/-- WAI (49_system.md R373). -/
def execWai (s : State) : Host.Outcome State Fault Refusal := .next ({ s with pins.readyOut := false }.settle 3 1 s)

/-- STP (49_system.md R374). -/
def execStp (s : State) : Host.Outcome State Fault Refusal := .next ({ s with pins.enabled := false }.settle 3 1 s)

end Sys2Proof.Machine
end

