-- ==== Sys2Proof/Syntax.lean ====
section
/-! DEFINITION. The instructions of the 65C816: one constructor for each of the 256 rows of
opcode_table.json, named by mnemonic and format, its operand bytes assembled as 30_encoding.md R115 says. -/

namespace Sys2Proof

/-- The 256 instructions (30_encoding.md R116). The operand of an immediate form whose length depends on
P.M or P.X (formats IMM_M and IMM_X) is a 16-bit word whose low byte alone counts when the form is one
byte long (R112, log 13). A constructor with no operand is one byte long, or takes its operand from A. -/
inductive Instr
  -- Loads and stores (41_load_store.md)
  | ldaDpXInd (dp : Byte) | ldaSr (sr : Byte) | ldaDp (dp : Byte) | ldaDpIndLong (dp : Byte)
  | ldaImmM (imm : Word) | ldaAbs (a : Word) | ldaLong (a : Addr) | ldaDpIndY (dp : Byte)
  | ldaDpInd (dp : Byte) | ldaSrIndY (sr : Byte) | ldaDpX (dp : Byte) | ldaDpIndLongY (dp : Byte)
  | ldaAbsY (a : Word) | ldaAbsX (a : Word) | ldaLongX (a : Addr)
  | ldxImmX (imm : Word) | ldxDp (dp : Byte) | ldxAbs (a : Word) | ldxDpY (dp : Byte) | ldxAbsY (a : Word)
  | ldyImmX (imm : Word) | ldyDp (dp : Byte) | ldyAbs (a : Word) | ldyDpX (dp : Byte) | ldyAbsX (a : Word)
  | staDpXInd (dp : Byte) | staSr (sr : Byte) | staDp (dp : Byte) | staDpIndLong (dp : Byte)
  | staAbs (a : Word) | staLong (a : Addr) | staDpIndY (dp : Byte) | staDpInd (dp : Byte)
  | staSrIndY (sr : Byte) | staDpX (dp : Byte) | staDpIndLongY (dp : Byte) | staAbsY (a : Word)
  | staAbsX (a : Word) | staLongX (a : Addr)
  | stxDp (dp : Byte) | stxAbs (a : Word) | stxDpY (dp : Byte)
  | styDp (dp : Byte) | styAbs (a : Word) | styDpX (dp : Byte)
  | stzDp (dp : Byte) | stzDpX (dp : Byte) | stzAbs (a : Word) | stzAbsX (a : Word)
  -- Arithmetic, logic and compare (42_alu.md)
  | adcDpXInd (dp : Byte) | adcSr (sr : Byte) | adcDp (dp : Byte) | adcDpIndLong (dp : Byte)
  | adcImmM (imm : Word) | adcAbs (a : Word) | adcLong (a : Addr) | adcDpIndY (dp : Byte)
  | adcDpInd (dp : Byte) | adcSrIndY (sr : Byte) | adcDpX (dp : Byte) | adcDpIndLongY (dp : Byte)
  | adcAbsY (a : Word) | adcAbsX (a : Word) | adcLongX (a : Addr)
  | sbcDpXInd (dp : Byte) | sbcSr (sr : Byte) | sbcDp (dp : Byte) | sbcDpIndLong (dp : Byte)
  | sbcImmM (imm : Word) | sbcAbs (a : Word) | sbcLong (a : Addr) | sbcDpIndY (dp : Byte)
  | sbcDpInd (dp : Byte) | sbcSrIndY (sr : Byte) | sbcDpX (dp : Byte) | sbcDpIndLongY (dp : Byte)
  | sbcAbsY (a : Word) | sbcAbsX (a : Word) | sbcLongX (a : Addr)
  | andDpXInd (dp : Byte) | andSr (sr : Byte) | andDp (dp : Byte) | andDpIndLong (dp : Byte)
  | andImmM (imm : Word) | andAbs (a : Word) | andLong (a : Addr) | andDpIndY (dp : Byte)
  | andDpInd (dp : Byte) | andSrIndY (sr : Byte) | andDpX (dp : Byte) | andDpIndLongY (dp : Byte)
  | andAbsY (a : Word) | andAbsX (a : Word) | andLongX (a : Addr)
  | oraDpXInd (dp : Byte) | oraSr (sr : Byte) | oraDp (dp : Byte) | oraDpIndLong (dp : Byte)
  | oraImmM (imm : Word) | oraAbs (a : Word) | oraLong (a : Addr) | oraDpIndY (dp : Byte)
  | oraDpInd (dp : Byte) | oraSrIndY (sr : Byte) | oraDpX (dp : Byte) | oraDpIndLongY (dp : Byte)
  | oraAbsY (a : Word) | oraAbsX (a : Word) | oraLongX (a : Addr)
  | eorDpXInd (dp : Byte) | eorSr (sr : Byte) | eorDp (dp : Byte) | eorDpIndLong (dp : Byte)
  | eorImmM (imm : Word) | eorAbs (a : Word) | eorLong (a : Addr) | eorDpIndY (dp : Byte)
  | eorDpInd (dp : Byte) | eorSrIndY (sr : Byte) | eorDpX (dp : Byte) | eorDpIndLongY (dp : Byte)
  | eorAbsY (a : Word) | eorAbsX (a : Word) | eorLongX (a : Addr)
  | cmpDpXInd (dp : Byte) | cmpSr (sr : Byte) | cmpDp (dp : Byte) | cmpDpIndLong (dp : Byte)
  | cmpImmM (imm : Word) | cmpAbs (a : Word) | cmpLong (a : Addr) | cmpDpIndY (dp : Byte)
  | cmpDpInd (dp : Byte) | cmpSrIndY (sr : Byte) | cmpDpX (dp : Byte) | cmpDpIndLongY (dp : Byte)
  | cmpAbsY (a : Word) | cmpAbsX (a : Word) | cmpLongX (a : Addr)
  | cpxImmX (imm : Word) | cpxDp (dp : Byte) | cpxAbs (a : Word)
  | cpyImmX (imm : Word) | cpyDp (dp : Byte) | cpyAbs (a : Word)
  | bitDp (dp : Byte) | bitAbs (a : Word) | bitDpX (dp : Byte) | bitAbsX (a : Word) | bitImmM (imm : Word)
  -- Shifts, rotates, increments, decrements, test-and-set/reset (43_rmw.md)
  | aslDp (dp : Byte) | aslAcc | aslAbs (a : Word) | aslDpX (dp : Byte) | aslAbsX (a : Word)
  | lsrDp (dp : Byte) | lsrAcc | lsrAbs (a : Word) | lsrDpX (dp : Byte) | lsrAbsX (a : Word)
  | rolDp (dp : Byte) | rolAcc | rolAbs (a : Word) | rolDpX (dp : Byte) | rolAbsX (a : Word)
  | rorDp (dp : Byte) | rorAcc | rorAbs (a : Word) | rorDpX (dp : Byte) | rorAbsX (a : Word)
  | incAcc | incDp (dp : Byte) | incAbs (a : Word) | incDpX (dp : Byte) | incAbsX (a : Word)
  | decAcc | decDp (dp : Byte) | decAbs (a : Word) | decDpX (dp : Byte) | decAbsX (a : Word)
  | tsbDp (dp : Byte) | tsbAbs (a : Word)
  | trbDp (dp : Byte) | trbAbs (a : Word) | inx | iny | dex | dey
  -- Branches, jumps, calls and returns (46_flow.md)
  | bcc (disp : Byte) | bcs (disp : Byte) | beq (disp : Byte) | bne (disp : Byte) | bmi (disp : Byte)
  | bpl (disp : Byte) | bvc (disp : Byte) | bvs (disp : Byte) | bra (disp : Byte)
  | brl (disp : Word)
  | jmpPcAbs (a : Word) | jmpPcInd (a : Word) | jmpPcIndX (a : Word)
  | jmlPcLong (a : Addr) | jmlPcIndLong (a : Word)
  | jsrPcAbs (a : Word) | jsrPcIndX (a : Word)
  | jsl (a : Addr) | rts | rtl
  -- Block moves (48_block_move.md)
  | mvn (dst : Byte) (src : Byte)
  | mvp (dst : Byte) (src : Byte)
  -- Software interrupts, RTI, WAI, STP (49_system.md)
  | brk (sig : Byte)
  | cop (sig : Byte) | rti | wai | stp
  -- Pushes and pulls (45_stack.md)
  | pea (imm : Word)
  | pei (dp : Byte)
  | per (disp : Word) | pha | pla | phx | plx | phy | ply | php | plp | phb | plb | phd | pld | phk
  -- Flag instructions, REP, SEP, XCE, NOP, WDM (47_flags_mode.md)
  | rep (mask : Byte)
  | sep (mask : Byte)
  | wdm (sig : Byte) | clc | sec | cli | sei | cld | sed | clv | nop | xce
  -- Register transfers and exchange (44_transfer.md)
  | tax | tay | txa | tya | tsx | txs | txy | tyx | tcd | tdc | tcs | tsc | xba
deriving DecidableEq, Repr

end Sys2Proof
end

