-- ==== Sys2Proof/Machine/Dispatch.lean ====
section
/-! DEFINITION. One arm per instruction: the meaning it calls. -/

namespace Sys2Proof.Machine

def exec (i : Instr) (s : State) : Host.Outcome State Fault Refusal :=
  match i with
  | .ldaDpXInd dp => Sys2Proof.Machine.execLdaDpXInd dp s
  | .ldaSr sr => Sys2Proof.Machine.execLdaSr sr s
  | .ldaDp dp => Sys2Proof.Machine.execLdaDp dp s
  | .ldaDpIndLong dp => Sys2Proof.Machine.execLdaDpIndLong dp s
  | .ldaImmM imm => Sys2Proof.Machine.execLdaImmM imm s
  | .ldaAbs a => Sys2Proof.Machine.execLdaAbs a s
  | .ldaLong a => Sys2Proof.Machine.execLdaLong a s
  | .ldaDpIndY dp => Sys2Proof.Machine.execLdaDpIndY dp s
  | .ldaDpInd dp => Sys2Proof.Machine.execLdaDpInd dp s
  | .ldaSrIndY sr => Sys2Proof.Machine.execLdaSrIndY sr s
  | .ldaDpX dp => Sys2Proof.Machine.execLdaDpX dp s
  | .ldaDpIndLongY dp => Sys2Proof.Machine.execLdaDpIndLongY dp s
  | .ldaAbsY a => Sys2Proof.Machine.execLdaAbsY a s
  | .ldaAbsX a => Sys2Proof.Machine.execLdaAbsX a s
  | .ldaLongX a => Sys2Proof.Machine.execLdaLongX a s
  | .ldxImmX imm => Sys2Proof.Machine.execLdxImmX imm s
  | .ldxDp dp => Sys2Proof.Machine.execLdxDp dp s
  | .ldxAbs a => Sys2Proof.Machine.execLdxAbs a s
  | .ldxDpY dp => Sys2Proof.Machine.execLdxDpY dp s
  | .ldxAbsY a => Sys2Proof.Machine.execLdxAbsY a s
  | .ldyImmX imm => Sys2Proof.Machine.execLdyImmX imm s
  | .ldyDp dp => Sys2Proof.Machine.execLdyDp dp s
  | .ldyAbs a => Sys2Proof.Machine.execLdyAbs a s
  | .ldyDpX dp => Sys2Proof.Machine.execLdyDpX dp s
  | .ldyAbsX a => Sys2Proof.Machine.execLdyAbsX a s
  | .staDpXInd dp => Sys2Proof.Machine.execStaDpXInd dp s
  | .staSr sr => Sys2Proof.Machine.execStaSr sr s
  | .staDp dp => Sys2Proof.Machine.execStaDp dp s
  | .staDpIndLong dp => Sys2Proof.Machine.execStaDpIndLong dp s
  | .staAbs a => Sys2Proof.Machine.execStaAbs a s
  | .staLong a => Sys2Proof.Machine.execStaLong a s
  | .staDpIndY dp => Sys2Proof.Machine.execStaDpIndY dp s
  | .staDpInd dp => Sys2Proof.Machine.execStaDpInd dp s
  | .staSrIndY sr => Sys2Proof.Machine.execStaSrIndY sr s
  | .staDpX dp => Sys2Proof.Machine.execStaDpX dp s
  | .staDpIndLongY dp => Sys2Proof.Machine.execStaDpIndLongY dp s
  | .staAbsY a => Sys2Proof.Machine.execStaAbsY a s
  | .staAbsX a => Sys2Proof.Machine.execStaAbsX a s
  | .staLongX a => Sys2Proof.Machine.execStaLongX a s
  | .stxDp dp => Sys2Proof.Machine.execStxDp dp s
  | .stxAbs a => Sys2Proof.Machine.execStxAbs a s
  | .stxDpY dp => Sys2Proof.Machine.execStxDpY dp s
  | .styDp dp => Sys2Proof.Machine.execStyDp dp s
  | .styAbs a => Sys2Proof.Machine.execStyAbs a s
  | .styDpX dp => Sys2Proof.Machine.execStyDpX dp s
  | .stzDp dp => Sys2Proof.Machine.execStzDp dp s
  | .stzDpX dp => Sys2Proof.Machine.execStzDpX dp s
  | .stzAbs a => Sys2Proof.Machine.execStzAbs a s
  | .stzAbsX a => Sys2Proof.Machine.execStzAbsX a s
  | .adcDpXInd dp => Sys2Proof.Machine.execAdcDpXInd dp s
  | .adcSr sr => Sys2Proof.Machine.execAdcSr sr s
  | .adcDp dp => Sys2Proof.Machine.execAdcDp dp s
  | .adcDpIndLong dp => Sys2Proof.Machine.execAdcDpIndLong dp s
  | .adcImmM imm => Sys2Proof.Machine.execAdcImmM imm s
  | .adcAbs a => Sys2Proof.Machine.execAdcAbs a s
  | .adcLong a => Sys2Proof.Machine.execAdcLong a s
  | .adcDpIndY dp => Sys2Proof.Machine.execAdcDpIndY dp s
  | .adcDpInd dp => Sys2Proof.Machine.execAdcDpInd dp s
  | .adcSrIndY sr => Sys2Proof.Machine.execAdcSrIndY sr s
  | .adcDpX dp => Sys2Proof.Machine.execAdcDpX dp s
  | .adcDpIndLongY dp => Sys2Proof.Machine.execAdcDpIndLongY dp s
  | .adcAbsY a => Sys2Proof.Machine.execAdcAbsY a s
  | .adcAbsX a => Sys2Proof.Machine.execAdcAbsX a s
  | .adcLongX a => Sys2Proof.Machine.execAdcLongX a s
  | .sbcDpXInd dp => Sys2Proof.Machine.execSbcDpXInd dp s
  | .sbcSr sr => Sys2Proof.Machine.execSbcSr sr s
  | .sbcDp dp => Sys2Proof.Machine.execSbcDp dp s
  | .sbcDpIndLong dp => Sys2Proof.Machine.execSbcDpIndLong dp s
  | .sbcImmM imm => Sys2Proof.Machine.execSbcImmM imm s
  | .sbcAbs a => Sys2Proof.Machine.execSbcAbs a s
  | .sbcLong a => Sys2Proof.Machine.execSbcLong a s
  | .sbcDpIndY dp => Sys2Proof.Machine.execSbcDpIndY dp s
  | .sbcDpInd dp => Sys2Proof.Machine.execSbcDpInd dp s
  | .sbcSrIndY sr => Sys2Proof.Machine.execSbcSrIndY sr s
  | .sbcDpX dp => Sys2Proof.Machine.execSbcDpX dp s
  | .sbcDpIndLongY dp => Sys2Proof.Machine.execSbcDpIndLongY dp s
  | .sbcAbsY a => Sys2Proof.Machine.execSbcAbsY a s
  | .sbcAbsX a => Sys2Proof.Machine.execSbcAbsX a s
  | .sbcLongX a => Sys2Proof.Machine.execSbcLongX a s
  | .andDpXInd dp => Sys2Proof.Machine.execAndDpXInd dp s
  | .andSr sr => Sys2Proof.Machine.execAndSr sr s
  | .andDp dp => Sys2Proof.Machine.execAndDp dp s
  | .andDpIndLong dp => Sys2Proof.Machine.execAndDpIndLong dp s
  | .andImmM imm => Sys2Proof.Machine.execAndImmM imm s
  | .andAbs a => Sys2Proof.Machine.execAndAbs a s
  | .andLong a => Sys2Proof.Machine.execAndLong a s
  | .andDpIndY dp => Sys2Proof.Machine.execAndDpIndY dp s
  | .andDpInd dp => Sys2Proof.Machine.execAndDpInd dp s
  | .andSrIndY sr => Sys2Proof.Machine.execAndSrIndY sr s
  | .andDpX dp => Sys2Proof.Machine.execAndDpX dp s
  | .andDpIndLongY dp => Sys2Proof.Machine.execAndDpIndLongY dp s
  | .andAbsY a => Sys2Proof.Machine.execAndAbsY a s
  | .andAbsX a => Sys2Proof.Machine.execAndAbsX a s
  | .andLongX a => Sys2Proof.Machine.execAndLongX a s
  | .oraDpXInd dp => Sys2Proof.Machine.execOraDpXInd dp s
  | .oraSr sr => Sys2Proof.Machine.execOraSr sr s
  | .oraDp dp => Sys2Proof.Machine.execOraDp dp s
  | .oraDpIndLong dp => Sys2Proof.Machine.execOraDpIndLong dp s
  | .oraImmM imm => Sys2Proof.Machine.execOraImmM imm s
  | .oraAbs a => Sys2Proof.Machine.execOraAbs a s
  | .oraLong a => Sys2Proof.Machine.execOraLong a s
  | .oraDpIndY dp => Sys2Proof.Machine.execOraDpIndY dp s
  | .oraDpInd dp => Sys2Proof.Machine.execOraDpInd dp s
  | .oraSrIndY sr => Sys2Proof.Machine.execOraSrIndY sr s
  | .oraDpX dp => Sys2Proof.Machine.execOraDpX dp s
  | .oraDpIndLongY dp => Sys2Proof.Machine.execOraDpIndLongY dp s
  | .oraAbsY a => Sys2Proof.Machine.execOraAbsY a s
  | .oraAbsX a => Sys2Proof.Machine.execOraAbsX a s
  | .oraLongX a => Sys2Proof.Machine.execOraLongX a s
  | .eorDpXInd dp => Sys2Proof.Machine.execEorDpXInd dp s
  | .eorSr sr => Sys2Proof.Machine.execEorSr sr s
  | .eorDp dp => Sys2Proof.Machine.execEorDp dp s
  | .eorDpIndLong dp => Sys2Proof.Machine.execEorDpIndLong dp s
  | .eorImmM imm => Sys2Proof.Machine.execEorImmM imm s
  | .eorAbs a => Sys2Proof.Machine.execEorAbs a s
  | .eorLong a => Sys2Proof.Machine.execEorLong a s
  | .eorDpIndY dp => Sys2Proof.Machine.execEorDpIndY dp s
  | .eorDpInd dp => Sys2Proof.Machine.execEorDpInd dp s
  | .eorSrIndY sr => Sys2Proof.Machine.execEorSrIndY sr s
  | .eorDpX dp => Sys2Proof.Machine.execEorDpX dp s
  | .eorDpIndLongY dp => Sys2Proof.Machine.execEorDpIndLongY dp s
  | .eorAbsY a => Sys2Proof.Machine.execEorAbsY a s
  | .eorAbsX a => Sys2Proof.Machine.execEorAbsX a s
  | .eorLongX a => Sys2Proof.Machine.execEorLongX a s
  | .cmpDpXInd dp => Sys2Proof.Machine.execCmpDpXInd dp s
  | .cmpSr sr => Sys2Proof.Machine.execCmpSr sr s
  | .cmpDp dp => Sys2Proof.Machine.execCmpDp dp s
  | .cmpDpIndLong dp => Sys2Proof.Machine.execCmpDpIndLong dp s
  | .cmpImmM imm => Sys2Proof.Machine.execCmpImmM imm s
  | .cmpAbs a => Sys2Proof.Machine.execCmpAbs a s
  | .cmpLong a => Sys2Proof.Machine.execCmpLong a s
  | .cmpDpIndY dp => Sys2Proof.Machine.execCmpDpIndY dp s
  | .cmpDpInd dp => Sys2Proof.Machine.execCmpDpInd dp s
  | .cmpSrIndY sr => Sys2Proof.Machine.execCmpSrIndY sr s
  | .cmpDpX dp => Sys2Proof.Machine.execCmpDpX dp s
  | .cmpDpIndLongY dp => Sys2Proof.Machine.execCmpDpIndLongY dp s
  | .cmpAbsY a => Sys2Proof.Machine.execCmpAbsY a s
  | .cmpAbsX a => Sys2Proof.Machine.execCmpAbsX a s
  | .cmpLongX a => Sys2Proof.Machine.execCmpLongX a s
  | .cpxImmX imm => Sys2Proof.Machine.execCpxImmX imm s
  | .cpxDp dp => Sys2Proof.Machine.execCpxDp dp s
  | .cpxAbs a => Sys2Proof.Machine.execCpxAbs a s
  | .cpyImmX imm => Sys2Proof.Machine.execCpyImmX imm s
  | .cpyDp dp => Sys2Proof.Machine.execCpyDp dp s
  | .cpyAbs a => Sys2Proof.Machine.execCpyAbs a s
  | .bitDp dp => Sys2Proof.Machine.execBitDp dp s
  | .bitAbs a => Sys2Proof.Machine.execBitAbs a s
  | .bitDpX dp => Sys2Proof.Machine.execBitDpX dp s
  | .bitAbsX a => Sys2Proof.Machine.execBitAbsX a s
  | .bitImmM imm => Sys2Proof.Machine.execBitImmM imm s
  | .aslDp dp => Sys2Proof.Machine.execAslDp dp s
  | .aslAcc => Sys2Proof.Machine.execAslAcc s
  | .aslAbs a => Sys2Proof.Machine.execAslAbs a s
  | .aslDpX dp => Sys2Proof.Machine.execAslDpX dp s
  | .aslAbsX a => Sys2Proof.Machine.execAslAbsX a s
  | .lsrDp dp => Sys2Proof.Machine.execLsrDp dp s
  | .lsrAcc => Sys2Proof.Machine.execLsrAcc s
  | .lsrAbs a => Sys2Proof.Machine.execLsrAbs a s
  | .lsrDpX dp => Sys2Proof.Machine.execLsrDpX dp s
  | .lsrAbsX a => Sys2Proof.Machine.execLsrAbsX a s
  | .rolDp dp => Sys2Proof.Machine.execRolDp dp s
  | .rolAcc => Sys2Proof.Machine.execRolAcc s
  | .rolAbs a => Sys2Proof.Machine.execRolAbs a s
  | .rolDpX dp => Sys2Proof.Machine.execRolDpX dp s
  | .rolAbsX a => Sys2Proof.Machine.execRolAbsX a s
  | .rorDp dp => Sys2Proof.Machine.execRorDp dp s
  | .rorAcc => Sys2Proof.Machine.execRorAcc s
  | .rorAbs a => Sys2Proof.Machine.execRorAbs a s
  | .rorDpX dp => Sys2Proof.Machine.execRorDpX dp s
  | .rorAbsX a => Sys2Proof.Machine.execRorAbsX a s
  | .incAcc => Sys2Proof.Machine.execIncAcc s
  | .incDp dp => Sys2Proof.Machine.execIncDp dp s
  | .incAbs a => Sys2Proof.Machine.execIncAbs a s
  | .incDpX dp => Sys2Proof.Machine.execIncDpX dp s
  | .incAbsX a => Sys2Proof.Machine.execIncAbsX a s
  | .decAcc => Sys2Proof.Machine.execDecAcc s
  | .decDp dp => Sys2Proof.Machine.execDecDp dp s
  | .decAbs a => Sys2Proof.Machine.execDecAbs a s
  | .decDpX dp => Sys2Proof.Machine.execDecDpX dp s
  | .decAbsX a => Sys2Proof.Machine.execDecAbsX a s
  | .tsbDp dp => Sys2Proof.Machine.execTsbDp dp s
  | .tsbAbs a => Sys2Proof.Machine.execTsbAbs a s
  | .trbDp dp => Sys2Proof.Machine.execTrbDp dp s
  | .trbAbs a => Sys2Proof.Machine.execTrbAbs a s
  | .inx => Sys2Proof.Machine.execInx s
  | .iny => Sys2Proof.Machine.execIny s
  | .dex => Sys2Proof.Machine.execDex s
  | .dey => Sys2Proof.Machine.execDey s
  | .bcc disp => Sys2Proof.Machine.execBcc disp s
  | .bcs disp => Sys2Proof.Machine.execBcs disp s
  | .beq disp => Sys2Proof.Machine.execBeq disp s
  | .bne disp => Sys2Proof.Machine.execBne disp s
  | .bmi disp => Sys2Proof.Machine.execBmi disp s
  | .bpl disp => Sys2Proof.Machine.execBpl disp s
  | .bvc disp => Sys2Proof.Machine.execBvc disp s
  | .bvs disp => Sys2Proof.Machine.execBvs disp s
  | .bra disp => Sys2Proof.Machine.execBra disp s
  | .brl disp => Sys2Proof.Machine.execBrl disp s
  | .jmpPcAbs a => Sys2Proof.Machine.execJmpPcAbs a s
  | .jmpPcInd a => Sys2Proof.Machine.execJmpPcInd a s
  | .jmpPcIndX a => Sys2Proof.Machine.execJmpPcIndX a s
  | .jmlPcLong a => Sys2Proof.Machine.execJmlPcLong a s
  | .jmlPcIndLong a => Sys2Proof.Machine.execJmlPcIndLong a s
  | .jsrPcAbs a => Sys2Proof.Machine.execJsrPcAbs a s
  | .jsrPcIndX a => Sys2Proof.Machine.execJsrPcIndX a s
  | .jsl a => Sys2Proof.Machine.execJsl a s
  | .rts => Sys2Proof.Machine.execRts s
  | .rtl => Sys2Proof.Machine.execRtl s
  | .mvn dst src => Sys2Proof.Machine.execMvn dst src s
  | .mvp dst src => Sys2Proof.Machine.execMvp dst src s
  | .brk sig => Sys2Proof.Machine.execBrk sig s
  | .cop sig => Sys2Proof.Machine.execCop sig s
  | .rti => Sys2Proof.Machine.execRti s
  | .wai => Sys2Proof.Machine.execWai s
  | .stp => Sys2Proof.Machine.execStp s
  | .pea imm => Sys2Proof.Machine.execPea imm s
  | .pei dp => Sys2Proof.Machine.execPei dp s
  | .per disp => Sys2Proof.Machine.execPer disp s
  | .pha => Sys2Proof.Machine.execPha s
  | .pla => Sys2Proof.Machine.execPla s
  | .phx => Sys2Proof.Machine.execPhx s
  | .plx => Sys2Proof.Machine.execPlx s
  | .phy => Sys2Proof.Machine.execPhy s
  | .ply => Sys2Proof.Machine.execPly s
  | .php => Sys2Proof.Machine.execPhp s
  | .plp => Sys2Proof.Machine.execPlp s
  | .phb => Sys2Proof.Machine.execPhb s
  | .plb => Sys2Proof.Machine.execPlb s
  | .phd => Sys2Proof.Machine.execPhd s
  | .pld => Sys2Proof.Machine.execPld s
  | .phk => Sys2Proof.Machine.execPhk s
  | .rep mask => Sys2Proof.Machine.execRep mask s
  | .sep mask => Sys2Proof.Machine.execSep mask s
  | .wdm sig => Sys2Proof.Machine.execWdm sig s
  | .clc => Sys2Proof.Machine.execClc s
  | .sec => Sys2Proof.Machine.execSec s
  | .cli => Sys2Proof.Machine.execCli s
  | .sei => Sys2Proof.Machine.execSei s
  | .cld => Sys2Proof.Machine.execCld s
  | .sed => Sys2Proof.Machine.execSed s
  | .clv => Sys2Proof.Machine.execClv s
  | .nop => Sys2Proof.Machine.execNop s
  | .xce => Sys2Proof.Machine.execXce s
  | .tax => Sys2Proof.Machine.execTax s
  | .tay => Sys2Proof.Machine.execTay s
  | .txa => Sys2Proof.Machine.execTxa s
  | .tya => Sys2Proof.Machine.execTya s
  | .tsx => Sys2Proof.Machine.execTsx s
  | .txs => Sys2Proof.Machine.execTxs s
  | .txy => Sys2Proof.Machine.execTxy s
  | .tyx => Sys2Proof.Machine.execTyx s
  | .tcd => Sys2Proof.Machine.execTcd s
  | .tdc => Sys2Proof.Machine.execTdc s
  | .tcs => Sys2Proof.Machine.execTcs s
  | .tsc => Sys2Proof.Machine.execTsc s
  | .xba => Sys2Proof.Machine.execXba s

end Sys2Proof.Machine
end

