-- ==== Sys2Proof/WellFormed.lean ====
section
/-! DEFINITION. Which instructions have an encoding under given values of P.M and P.X. -/

namespace Sys2Proof

/-- The operand of an immediate that is one byte long when `narrow`: its high byte is zero. -/
def immFits (narrow : Bool) (imm : Word) : Bool := !narrow || imm.extractLsb' 8 8 == 0#8

/-- `i` has an encoding where P.M is `m` and P.X is `x`: the operand of a form IMM_M fits one byte when
P.M = 1, that of a form IMM_X when P.X = 1 (30_encoding.md R112). Every other operand may hold any value
(R118). -/
def Instr.wellFormed (m x : Bool) : Instr → Bool
  | .ldaImmM imm => immFits m imm
  | .ldxImmX imm => immFits x imm
  | .ldyImmX imm => immFits x imm
  | .adcImmM imm => immFits m imm
  | .sbcImmM imm => immFits m imm
  | .andImmM imm => immFits m imm
  | .oraImmM imm => immFits m imm
  | .eorImmM imm => immFits m imm
  | .cmpImmM imm => immFits m imm
  | .cpxImmX imm => immFits x imm
  | .cpyImmX imm => immFits x imm
  | .bitImmM imm => immFits m imm
  | .ldaDpXInd _ | .ldaSr _ | .ldaDp _ | .ldaDpIndLong _ | .ldaAbs _ | .ldaLong _ | .ldaDpIndY _
  | .ldaDpInd _ | .ldaSrIndY _ | .ldaDpX _ | .ldaDpIndLongY _ | .ldaAbsY _ | .ldaAbsX _ | .ldaLongX _
  | .ldxDp _ | .ldxAbs _ | .ldxDpY _ | .ldxAbsY _ | .ldyDp _ | .ldyAbs _ | .ldyDpX _ | .ldyAbsX _
  | .staDpXInd _ | .staSr _ | .staDp _ | .staDpIndLong _ | .staAbs _ | .staLong _ | .staDpIndY _
  | .staDpInd _ | .staSrIndY _ | .staDpX _ | .staDpIndLongY _ | .staAbsY _ | .staAbsX _ | .staLongX _
  | .stxDp _ | .stxAbs _ | .stxDpY _ | .styDp _ | .styAbs _ | .styDpX _ | .stzDp _ | .stzDpX _
  | .stzAbs _ | .stzAbsX _ | .adcDpXInd _ | .adcSr _ | .adcDp _ | .adcDpIndLong _ | .adcAbs _
  | .adcLong _ | .adcDpIndY _ | .adcDpInd _ | .adcSrIndY _ | .adcDpX _ | .adcDpIndLongY _ | .adcAbsY _
  | .adcAbsX _ | .adcLongX _ | .sbcDpXInd _ | .sbcSr _ | .sbcDp _ | .sbcDpIndLong _ | .sbcAbs _
  | .sbcLong _ | .sbcDpIndY _ | .sbcDpInd _ | .sbcSrIndY _ | .sbcDpX _ | .sbcDpIndLongY _ | .sbcAbsY _
  | .sbcAbsX _ | .sbcLongX _ | .andDpXInd _ | .andSr _ | .andDp _ | .andDpIndLong _ | .andAbs _
  | .andLong _ | .andDpIndY _ | .andDpInd _ | .andSrIndY _ | .andDpX _ | .andDpIndLongY _ | .andAbsY _
  | .andAbsX _ | .andLongX _ | .oraDpXInd _ | .oraSr _ | .oraDp _ | .oraDpIndLong _ | .oraAbs _
  | .oraLong _ | .oraDpIndY _ | .oraDpInd _ | .oraSrIndY _ | .oraDpX _ | .oraDpIndLongY _ | .oraAbsY _
  | .oraAbsX _ | .oraLongX _ | .eorDpXInd _ | .eorSr _ | .eorDp _ | .eorDpIndLong _ | .eorAbs _
  | .eorLong _ | .eorDpIndY _ | .eorDpInd _ | .eorSrIndY _ | .eorDpX _ | .eorDpIndLongY _ | .eorAbsY _
  | .eorAbsX _ | .eorLongX _ | .cmpDpXInd _ | .cmpSr _ | .cmpDp _ | .cmpDpIndLong _ | .cmpAbs _
  | .cmpLong _ | .cmpDpIndY _ | .cmpDpInd _ | .cmpSrIndY _ | .cmpDpX _ | .cmpDpIndLongY _ | .cmpAbsY _
  | .cmpAbsX _ | .cmpLongX _ | .cpxDp _ | .cpxAbs _ | .cpyDp _ | .cpyAbs _ | .bitDp _ | .bitAbs _
  | .bitDpX _ | .bitAbsX _ | .aslDp _ | .aslAcc | .aslAbs _ | .aslDpX _ | .aslAbsX _ | .lsrDp _ | .lsrAcc
  | .lsrAbs _ | .lsrDpX _ | .lsrAbsX _ | .rolDp _ | .rolAcc | .rolAbs _ | .rolDpX _ | .rolAbsX _
  | .rorDp _ | .rorAcc | .rorAbs _ | .rorDpX _ | .rorAbsX _ | .incAcc | .incDp _ | .incAbs _ | .incDpX _
  | .incAbsX _ | .decAcc | .decDp _ | .decAbs _ | .decDpX _ | .decAbsX _ | .tsbDp _ | .tsbAbs _
  | .trbDp _ | .trbAbs _ | .inx | .iny | .dex | .dey | .bcc _ | .bcs _ | .beq _ | .bne _ | .bmi _
  | .bpl _ | .bvc _ | .bvs _ | .bra _ | .brl _ | .jmpPcAbs _ | .jmpPcInd _ | .jmpPcIndX _ | .jmlPcLong _
  | .jmlPcIndLong _ | .jsrPcAbs _ | .jsrPcIndX _ | .jsl _ | .rts | .rtl | .mvn _ _ | .mvp _ _ | .brk _
  | .cop _ | .rti | .wai | .stp | .pea _ | .pei _ | .per _ | .pha | .pla | .phx | .plx | .phy | .ply
  | .php | .plp | .phb | .plb | .phd | .pld | .phk | .rep _ | .sep _ | .wdm _ | .clc | .sec | .cli | .sei
  | .cld | .sed | .clv | .nop | .xce | .tax | .tay | .txa | .tya | .tsx | .txs | .txy | .tyx | .tcd
  | .tdc | .tcs | .tsc | .xba => true

end Sys2Proof
end

