-- ==== Sys2Proof/Decode.lean ====
section
/-! DEFINITION. From bytes to instructions and back: the opcode matrix (30_encoding.md R116), the operand
layouts (R111, R115), a decoder total on any bytes, and the encoder. -/

namespace Sys2Proof

open Sys2Proof.Machine

/-- A hexadecimal digit: a row or a column of the opcode matrix. -/
inductive Hex
  | x0 | x1 | x2 | x3 | x4 | x5 | x6 | x7 | x8 | x9 | xA | xB | xC | xD | xE | xF
deriving DecidableEq, Repr

/-- The digit held by bits `i + 3` to `i` of a byte. -/
def hexDigit (b : Byte) (i : Nat) : Hex :=
  match b.getLsbD (i + 3), b.getLsbD (i + 2), b.getLsbD (i + 1), b.getLsbD i with
  | false, false, false, false => .x0
  | false, false, false, true => .x1
  | false, false, true, false => .x2
  | false, false, true, true => .x3
  | false, true, false, false => .x4
  | false, true, false, true => .x5
  | false, true, true, false => .x6
  | false, true, true, true => .x7
  | true, false, false, false => .x8
  | true, false, false, true => .x9
  | true, false, true, false => .xA
  | true, false, true, true => .xB
  | true, true, false, false => .xC
  | true, true, false, true => .xD
  | true, true, true, false => .xE
  | true, true, true, true => .xF

/-- What a cell of the opcode matrix leaves to be read: the operand bytes of its format (30_encoding.md
R111), and the instruction they make. `immM` and `immX` are the formats whose length depends on P.M and
P.X, `block` the two bank bytes of MVN and MVP, destination first. -/
inductive Shape
  | none (i : Instr)
  | one (f : Byte → Instr)
  | two (f : Word → Instr)
  | three (f : Addr → Instr)
  | immM (f : Word → Instr)
  | immX (f : Word → Instr)
  | block (f : Byte → Byte → Instr)

/-- Row 0x of the opcode matrix (30_encoding.md R116). -/
def opcodeRow0 : Hex → Shape
  | .x0 => .one .brk
  | .x1 => .one .oraDpXInd
  | .x2 => .one .cop
  | .x3 => .one .oraSr
  | .x4 => .one .tsbDp
  | .x5 => .one .oraDp
  | .x6 => .one .aslDp
  | .x7 => .one .oraDpIndLong
  | .x8 => .none .php
  | .x9 => .immM .oraImmM
  | .xA => .none .aslAcc
  | .xB => .none .phd
  | .xC => .two .tsbAbs
  | .xD => .two .oraAbs
  | .xE => .two .aslAbs
  | .xF => .three .oraLong

/-- Row 1x of the opcode matrix (30_encoding.md R116). -/
def opcodeRow1 : Hex → Shape
  | .x0 => .one .bpl
  | .x1 => .one .oraDpIndY
  | .x2 => .one .oraDpInd
  | .x3 => .one .oraSrIndY
  | .x4 => .one .trbDp
  | .x5 => .one .oraDpX
  | .x6 => .one .aslDpX
  | .x7 => .one .oraDpIndLongY
  | .x8 => .none .clc
  | .x9 => .two .oraAbsY
  | .xA => .none .incAcc
  | .xB => .none .tcs
  | .xC => .two .trbAbs
  | .xD => .two .oraAbsX
  | .xE => .two .aslAbsX
  | .xF => .three .oraLongX

/-- Row 2x of the opcode matrix (30_encoding.md R116). -/
def opcodeRow2 : Hex → Shape
  | .x0 => .two .jsrPcAbs
  | .x1 => .one .andDpXInd
  | .x2 => .three .jsl
  | .x3 => .one .andSr
  | .x4 => .one .bitDp
  | .x5 => .one .andDp
  | .x6 => .one .rolDp
  | .x7 => .one .andDpIndLong
  | .x8 => .none .plp
  | .x9 => .immM .andImmM
  | .xA => .none .rolAcc
  | .xB => .none .pld
  | .xC => .two .bitAbs
  | .xD => .two .andAbs
  | .xE => .two .rolAbs
  | .xF => .three .andLong

/-- Row 3x of the opcode matrix (30_encoding.md R116). -/
def opcodeRow3 : Hex → Shape
  | .x0 => .one .bmi
  | .x1 => .one .andDpIndY
  | .x2 => .one .andDpInd
  | .x3 => .one .andSrIndY
  | .x4 => .one .bitDpX
  | .x5 => .one .andDpX
  | .x6 => .one .rolDpX
  | .x7 => .one .andDpIndLongY
  | .x8 => .none .sec
  | .x9 => .two .andAbsY
  | .xA => .none .decAcc
  | .xB => .none .tsc
  | .xC => .two .bitAbsX
  | .xD => .two .andAbsX
  | .xE => .two .rolAbsX
  | .xF => .three .andLongX

/-- Row 4x of the opcode matrix (30_encoding.md R116). -/
def opcodeRow4 : Hex → Shape
  | .x0 => .none .rti
  | .x1 => .one .eorDpXInd
  | .x2 => .one .wdm
  | .x3 => .one .eorSr
  | .x4 => .block .mvp
  | .x5 => .one .eorDp
  | .x6 => .one .lsrDp
  | .x7 => .one .eorDpIndLong
  | .x8 => .none .pha
  | .x9 => .immM .eorImmM
  | .xA => .none .lsrAcc
  | .xB => .none .phk
  | .xC => .two .jmpPcAbs
  | .xD => .two .eorAbs
  | .xE => .two .lsrAbs
  | .xF => .three .eorLong

/-- Row 5x of the opcode matrix (30_encoding.md R116). -/
def opcodeRow5 : Hex → Shape
  | .x0 => .one .bvc
  | .x1 => .one .eorDpIndY
  | .x2 => .one .eorDpInd
  | .x3 => .one .eorSrIndY
  | .x4 => .block .mvn
  | .x5 => .one .eorDpX
  | .x6 => .one .lsrDpX
  | .x7 => .one .eorDpIndLongY
  | .x8 => .none .cli
  | .x9 => .two .eorAbsY
  | .xA => .none .phy
  | .xB => .none .tcd
  | .xC => .three .jmlPcLong
  | .xD => .two .eorAbsX
  | .xE => .two .lsrAbsX
  | .xF => .three .eorLongX

/-- Row 6x of the opcode matrix (30_encoding.md R116). -/
def opcodeRow6 : Hex → Shape
  | .x0 => .none .rts
  | .x1 => .one .adcDpXInd
  | .x2 => .two .per
  | .x3 => .one .adcSr
  | .x4 => .one .stzDp
  | .x5 => .one .adcDp
  | .x6 => .one .rorDp
  | .x7 => .one .adcDpIndLong
  | .x8 => .none .pla
  | .x9 => .immM .adcImmM
  | .xA => .none .rorAcc
  | .xB => .none .rtl
  | .xC => .two .jmpPcInd
  | .xD => .two .adcAbs
  | .xE => .two .rorAbs
  | .xF => .three .adcLong

/-- Row 7x of the opcode matrix (30_encoding.md R116). -/
def opcodeRow7 : Hex → Shape
  | .x0 => .one .bvs
  | .x1 => .one .adcDpIndY
  | .x2 => .one .adcDpInd
  | .x3 => .one .adcSrIndY
  | .x4 => .one .stzDpX
  | .x5 => .one .adcDpX
  | .x6 => .one .rorDpX
  | .x7 => .one .adcDpIndLongY
  | .x8 => .none .sei
  | .x9 => .two .adcAbsY
  | .xA => .none .ply
  | .xB => .none .tdc
  | .xC => .two .jmpPcIndX
  | .xD => .two .adcAbsX
  | .xE => .two .rorAbsX
  | .xF => .three .adcLongX

/-- Row 8x of the opcode matrix (30_encoding.md R116). -/
def opcodeRow8 : Hex → Shape
  | .x0 => .one .bra
  | .x1 => .one .staDpXInd
  | .x2 => .two .brl
  | .x3 => .one .staSr
  | .x4 => .one .styDp
  | .x5 => .one .staDp
  | .x6 => .one .stxDp
  | .x7 => .one .staDpIndLong
  | .x8 => .none .dey
  | .x9 => .immM .bitImmM
  | .xA => .none .txa
  | .xB => .none .phb
  | .xC => .two .styAbs
  | .xD => .two .staAbs
  | .xE => .two .stxAbs
  | .xF => .three .staLong

/-- Row 9x of the opcode matrix (30_encoding.md R116). -/
def opcodeRow9 : Hex → Shape
  | .x0 => .one .bcc
  | .x1 => .one .staDpIndY
  | .x2 => .one .staDpInd
  | .x3 => .one .staSrIndY
  | .x4 => .one .styDpX
  | .x5 => .one .staDpX
  | .x6 => .one .stxDpY
  | .x7 => .one .staDpIndLongY
  | .x8 => .none .tya
  | .x9 => .two .staAbsY
  | .xA => .none .txs
  | .xB => .none .txy
  | .xC => .two .stzAbs
  | .xD => .two .staAbsX
  | .xE => .two .stzAbsX
  | .xF => .three .staLongX

/-- Row Ax of the opcode matrix (30_encoding.md R116). -/
def opcodeRowA : Hex → Shape
  | .x0 => .immX .ldyImmX
  | .x1 => .one .ldaDpXInd
  | .x2 => .immX .ldxImmX
  | .x3 => .one .ldaSr
  | .x4 => .one .ldyDp
  | .x5 => .one .ldaDp
  | .x6 => .one .ldxDp
  | .x7 => .one .ldaDpIndLong
  | .x8 => .none .tay
  | .x9 => .immM .ldaImmM
  | .xA => .none .tax
  | .xB => .none .plb
  | .xC => .two .ldyAbs
  | .xD => .two .ldaAbs
  | .xE => .two .ldxAbs
  | .xF => .three .ldaLong

/-- Row Bx of the opcode matrix (30_encoding.md R116). -/
def opcodeRowB : Hex → Shape
  | .x0 => .one .bcs
  | .x1 => .one .ldaDpIndY
  | .x2 => .one .ldaDpInd
  | .x3 => .one .ldaSrIndY
  | .x4 => .one .ldyDpX
  | .x5 => .one .ldaDpX
  | .x6 => .one .ldxDpY
  | .x7 => .one .ldaDpIndLongY
  | .x8 => .none .clv
  | .x9 => .two .ldaAbsY
  | .xA => .none .tsx
  | .xB => .none .tyx
  | .xC => .two .ldyAbsX
  | .xD => .two .ldaAbsX
  | .xE => .two .ldxAbsY
  | .xF => .three .ldaLongX

/-- Row Cx of the opcode matrix (30_encoding.md R116). -/
def opcodeRowC : Hex → Shape
  | .x0 => .immX .cpyImmX
  | .x1 => .one .cmpDpXInd
  | .x2 => .one .rep
  | .x3 => .one .cmpSr
  | .x4 => .one .cpyDp
  | .x5 => .one .cmpDp
  | .x6 => .one .decDp
  | .x7 => .one .cmpDpIndLong
  | .x8 => .none .iny
  | .x9 => .immM .cmpImmM
  | .xA => .none .dex
  | .xB => .none .wai
  | .xC => .two .cpyAbs
  | .xD => .two .cmpAbs
  | .xE => .two .decAbs
  | .xF => .three .cmpLong

/-- Row Dx of the opcode matrix (30_encoding.md R116). -/
def opcodeRowD : Hex → Shape
  | .x0 => .one .bne
  | .x1 => .one .cmpDpIndY
  | .x2 => .one .cmpDpInd
  | .x3 => .one .cmpSrIndY
  | .x4 => .one .pei
  | .x5 => .one .cmpDpX
  | .x6 => .one .decDpX
  | .x7 => .one .cmpDpIndLongY
  | .x8 => .none .cld
  | .x9 => .two .cmpAbsY
  | .xA => .none .phx
  | .xB => .none .stp
  | .xC => .two .jmlPcIndLong
  | .xD => .two .cmpAbsX
  | .xE => .two .decAbsX
  | .xF => .three .cmpLongX

/-- Row Ex of the opcode matrix (30_encoding.md R116). -/
def opcodeRowE : Hex → Shape
  | .x0 => .immX .cpxImmX
  | .x1 => .one .sbcDpXInd
  | .x2 => .one .sep
  | .x3 => .one .sbcSr
  | .x4 => .one .cpxDp
  | .x5 => .one .sbcDp
  | .x6 => .one .incDp
  | .x7 => .one .sbcDpIndLong
  | .x8 => .none .inx
  | .x9 => .immM .sbcImmM
  | .xA => .none .nop
  | .xB => .none .xba
  | .xC => .two .cpxAbs
  | .xD => .two .sbcAbs
  | .xE => .two .incAbs
  | .xF => .three .sbcLong

/-- Row Fx of the opcode matrix (30_encoding.md R116). -/
def opcodeRowF : Hex → Shape
  | .x0 => .one .beq
  | .x1 => .one .sbcDpIndY
  | .x2 => .one .sbcDpInd
  | .x3 => .one .sbcSrIndY
  | .x4 => .two .pea
  | .x5 => .one .sbcDpX
  | .x6 => .one .incDpX
  | .x7 => .one .sbcDpIndLongY
  | .x8 => .none .sed
  | .x9 => .two .sbcAbsY
  | .xA => .none .plx
  | .xB => .none .xce
  | .xC => .two .jsrPcIndX
  | .xD => .two .sbcAbsX
  | .xE => .two .incAbsX
  | .xF => .three .sbcLongX

/-- The opcode matrix: the high digit selects the row, the low digit the column (30_encoding.md R116). There is
no other opcode, so there is no default arm (R119). -/
def opcodeMatrix : Hex → Hex → Shape
  | .x0, c => opcodeRow0 c
  | .x1, c => opcodeRow1 c
  | .x2, c => opcodeRow2 c
  | .x3, c => opcodeRow3 c
  | .x4, c => opcodeRow4 c
  | .x5, c => opcodeRow5 c
  | .x6, c => opcodeRow6 c
  | .x7, c => opcodeRow7 c
  | .x8, c => opcodeRow8 c
  | .x9, c => opcodeRow9 c
  | .xA, c => opcodeRowA c
  | .xB, c => opcodeRowB c
  | .xC, c => opcodeRowC c
  | .xD, c => opcodeRowD c
  | .xE, c => opcodeRowE c
  | .xF, c => opcodeRowF c

/-- The cell of an opcode byte. -/
def opcodeShape (opcode : Byte) : Shape := opcodeMatrix (hexDigit opcode 4) (hexDigit opcode 0)

/-- The number of operand bytes where P.M is `m` and P.X is `x` (30_encoding.md R111, R112). -/
def Shape.operandBytes (m x : Bool) : Shape → Nat
  | .none _ => 0
  | .one _ => 1
  | .two _ => 2
  | .three _ => 3
  | .immM _ => if m then 1 else 2
  | .immX _ => if x then 1 else 2
  | .block _ => 2

/-- An immediate of one byte when `narrow`, else of two, little-endian (30_encoding.md R115). -/
def immOperand (narrow : Bool) (b1 b2 : Byte) : Word := if narrow then zeroExt b1 else joinWord b2 b1

/-- The instruction made of the operand bytes `b1`, `b2`, `b3`, in the order of their addresses
(30_encoding.md R115). A byte the format does not have is not looked at. -/
def Shape.build (m x : Bool) (b1 b2 b3 : Byte) : Shape → Instr
  | .none i => i
  | .one f => f b1
  | .two f => f (joinWord b2 b1)
  | .three f => f (joinAddr b3 (joinWord b2 b1))
  | .immM f => f (immOperand m b1 b2)
  | .immX f => f (immOperand x b1 b2)
  | .block f => f b1 b2

/-- Why bytes do not decode. No opcode is illegal (30_encoding.md R118), so only their number can be wrong. -/
inductive DecodeError
  /-- There is no opcode byte. -/
  | noOpcode
  /-- The opcode's format has more operand bytes than there are. -/
  | missingOperand (opcode : Byte)
deriving DecidableEq, Repr

/-- Decodes the instruction at the head of `bytes` where P.M is `m` and P.X is `x`, and answers the bytes
after it (30_encoding.md R110, R112). -/
def decode (m x : Bool) (bytes : List Byte) : Except DecodeError (Instr × List Byte) :=
  match bytes with
  | [] => .error .noOpcode
  | opcode :: rest =>
    if rest.length < (opcodeShape opcode).operandBytes m x then .error (.missingOperand opcode)
    else .ok ((opcodeShape opcode).build m x (rest.getD 0 0) (rest.getD 1 0) (rest.getD 2 0),
      rest.drop ((opcodeShape opcode).operandBytes m x))

/-- The first four bytes of a number whose byte 0 is the first in memory. -/
def tableBytes (w : Nat) : List Byte :=
  [BitVec.ofNat 8 w, BitVec.ofNat 8 (w / 2 ^ 8), BitVec.ofNat 8 (w / 2 ^ 16), BitVec.ofNat 8 (w / 2 ^ 24)]

/-- What the decoder reads from the instruction whose bits are `w`, numbered as opcode_table.json numbers
them; the bits from `nbits` on are zero. The immediate forms are read at P.M = P.X = 1, the values
after reset (log 14). -/
def decodeTableWord (nbits w : Nat) : Option Instr :=
  match decode true true (tableBytes (w % 2 ^ nbits)) with
  | .ok (i, _) => some i
  | .error _ => none

/-- Opcode and one operand byte. -/
def encode1 (opcode b : Byte) : List Byte := [opcode, b]

/-- Opcode and two operand bytes, little-endian (30_encoding.md R115). -/
def encode2 (opcode : Byte) (w : Word) : List Byte := [opcode, lowByte w, highByte w]

/-- Opcode and three operand bytes: low, high, bank (30_encoding.md R115). -/
def encode3 (opcode : Byte) (a : Addr) : List Byte :=
  [opcode, lowByte (offsetOf a), highByte (offsetOf a), bankOf a]

/-- Opcode and an immediate of one byte when `narrow`, else of two (30_encoding.md R112). -/
def encodeImm (narrow : Bool) (opcode : Byte) (w : Word) : List Byte :=
  if narrow then [opcode, lowByte w] else [opcode, lowByte w, highByte w]

/-- The bytes of an instruction where P.M is `m` and P.X is `x` (the Encodings of each instruction's rule). -/
def encode (m x : Bool) : Instr → List Byte
  | .ldaDpXInd dp => encode1 0xA1#8 dp
  | .ldaSr sr => encode1 0xA3#8 sr
  | .ldaDp dp => encode1 0xA5#8 dp
  | .ldaDpIndLong dp => encode1 0xA7#8 dp
  | .ldaImmM imm => encodeImm m 0xA9#8 imm
  | .ldaAbs a => encode2 0xAD#8 a
  | .ldaLong a => encode3 0xAF#8 a
  | .ldaDpIndY dp => encode1 0xB1#8 dp
  | .ldaDpInd dp => encode1 0xB2#8 dp
  | .ldaSrIndY sr => encode1 0xB3#8 sr
  | .ldaDpX dp => encode1 0xB5#8 dp
  | .ldaDpIndLongY dp => encode1 0xB7#8 dp
  | .ldaAbsY a => encode2 0xB9#8 a
  | .ldaAbsX a => encode2 0xBD#8 a
  | .ldaLongX a => encode3 0xBF#8 a
  | .ldxImmX imm => encodeImm x 0xA2#8 imm
  | .ldxDp dp => encode1 0xA6#8 dp
  | .ldxAbs a => encode2 0xAE#8 a
  | .ldxDpY dp => encode1 0xB6#8 dp
  | .ldxAbsY a => encode2 0xBE#8 a
  | .ldyImmX imm => encodeImm x 0xA0#8 imm
  | .ldyDp dp => encode1 0xA4#8 dp
  | .ldyAbs a => encode2 0xAC#8 a
  | .ldyDpX dp => encode1 0xB4#8 dp
  | .ldyAbsX a => encode2 0xBC#8 a
  | .staDpXInd dp => encode1 0x81#8 dp
  | .staSr sr => encode1 0x83#8 sr
  | .staDp dp => encode1 0x85#8 dp
  | .staDpIndLong dp => encode1 0x87#8 dp
  | .staAbs a => encode2 0x8D#8 a
  | .staLong a => encode3 0x8F#8 a
  | .staDpIndY dp => encode1 0x91#8 dp
  | .staDpInd dp => encode1 0x92#8 dp
  | .staSrIndY sr => encode1 0x93#8 sr
  | .staDpX dp => encode1 0x95#8 dp
  | .staDpIndLongY dp => encode1 0x97#8 dp
  | .staAbsY a => encode2 0x99#8 a
  | .staAbsX a => encode2 0x9D#8 a
  | .staLongX a => encode3 0x9F#8 a
  | .stxDp dp => encode1 0x86#8 dp
  | .stxAbs a => encode2 0x8E#8 a
  | .stxDpY dp => encode1 0x96#8 dp
  | .styDp dp => encode1 0x84#8 dp
  | .styAbs a => encode2 0x8C#8 a
  | .styDpX dp => encode1 0x94#8 dp
  | .stzDp dp => encode1 0x64#8 dp
  | .stzDpX dp => encode1 0x74#8 dp
  | .stzAbs a => encode2 0x9C#8 a
  | .stzAbsX a => encode2 0x9E#8 a
  | .adcDpXInd dp => encode1 0x61#8 dp
  | .adcSr sr => encode1 0x63#8 sr
  | .adcDp dp => encode1 0x65#8 dp
  | .adcDpIndLong dp => encode1 0x67#8 dp
  | .adcImmM imm => encodeImm m 0x69#8 imm
  | .adcAbs a => encode2 0x6D#8 a
  | .adcLong a => encode3 0x6F#8 a
  | .adcDpIndY dp => encode1 0x71#8 dp
  | .adcDpInd dp => encode1 0x72#8 dp
  | .adcSrIndY sr => encode1 0x73#8 sr
  | .adcDpX dp => encode1 0x75#8 dp
  | .adcDpIndLongY dp => encode1 0x77#8 dp
  | .adcAbsY a => encode2 0x79#8 a
  | .adcAbsX a => encode2 0x7D#8 a
  | .adcLongX a => encode3 0x7F#8 a
  | .sbcDpXInd dp => encode1 0xE1#8 dp
  | .sbcSr sr => encode1 0xE3#8 sr
  | .sbcDp dp => encode1 0xE5#8 dp
  | .sbcDpIndLong dp => encode1 0xE7#8 dp
  | .sbcImmM imm => encodeImm m 0xE9#8 imm
  | .sbcAbs a => encode2 0xED#8 a
  | .sbcLong a => encode3 0xEF#8 a
  | .sbcDpIndY dp => encode1 0xF1#8 dp
  | .sbcDpInd dp => encode1 0xF2#8 dp
  | .sbcSrIndY sr => encode1 0xF3#8 sr
  | .sbcDpX dp => encode1 0xF5#8 dp
  | .sbcDpIndLongY dp => encode1 0xF7#8 dp
  | .sbcAbsY a => encode2 0xF9#8 a
  | .sbcAbsX a => encode2 0xFD#8 a
  | .sbcLongX a => encode3 0xFF#8 a
  | .andDpXInd dp => encode1 0x21#8 dp
  | .andSr sr => encode1 0x23#8 sr
  | .andDp dp => encode1 0x25#8 dp
  | .andDpIndLong dp => encode1 0x27#8 dp
  | .andImmM imm => encodeImm m 0x29#8 imm
  | .andAbs a => encode2 0x2D#8 a
  | .andLong a => encode3 0x2F#8 a
  | .andDpIndY dp => encode1 0x31#8 dp
  | .andDpInd dp => encode1 0x32#8 dp
  | .andSrIndY sr => encode1 0x33#8 sr
  | .andDpX dp => encode1 0x35#8 dp
  | .andDpIndLongY dp => encode1 0x37#8 dp
  | .andAbsY a => encode2 0x39#8 a
  | .andAbsX a => encode2 0x3D#8 a
  | .andLongX a => encode3 0x3F#8 a
  | .oraDpXInd dp => encode1 0x01#8 dp
  | .oraSr sr => encode1 0x03#8 sr
  | .oraDp dp => encode1 0x05#8 dp
  | .oraDpIndLong dp => encode1 0x07#8 dp
  | .oraImmM imm => encodeImm m 0x09#8 imm
  | .oraAbs a => encode2 0x0D#8 a
  | .oraLong a => encode3 0x0F#8 a
  | .oraDpIndY dp => encode1 0x11#8 dp
  | .oraDpInd dp => encode1 0x12#8 dp
  | .oraSrIndY sr => encode1 0x13#8 sr
  | .oraDpX dp => encode1 0x15#8 dp
  | .oraDpIndLongY dp => encode1 0x17#8 dp
  | .oraAbsY a => encode2 0x19#8 a
  | .oraAbsX a => encode2 0x1D#8 a
  | .oraLongX a => encode3 0x1F#8 a
  | .eorDpXInd dp => encode1 0x41#8 dp
  | .eorSr sr => encode1 0x43#8 sr
  | .eorDp dp => encode1 0x45#8 dp
  | .eorDpIndLong dp => encode1 0x47#8 dp
  | .eorImmM imm => encodeImm m 0x49#8 imm
  | .eorAbs a => encode2 0x4D#8 a
  | .eorLong a => encode3 0x4F#8 a
  | .eorDpIndY dp => encode1 0x51#8 dp
  | .eorDpInd dp => encode1 0x52#8 dp
  | .eorSrIndY sr => encode1 0x53#8 sr
  | .eorDpX dp => encode1 0x55#8 dp
  | .eorDpIndLongY dp => encode1 0x57#8 dp
  | .eorAbsY a => encode2 0x59#8 a
  | .eorAbsX a => encode2 0x5D#8 a
  | .eorLongX a => encode3 0x5F#8 a
  | .cmpDpXInd dp => encode1 0xC1#8 dp
  | .cmpSr sr => encode1 0xC3#8 sr
  | .cmpDp dp => encode1 0xC5#8 dp
  | .cmpDpIndLong dp => encode1 0xC7#8 dp
  | .cmpImmM imm => encodeImm m 0xC9#8 imm
  | .cmpAbs a => encode2 0xCD#8 a
  | .cmpLong a => encode3 0xCF#8 a
  | .cmpDpIndY dp => encode1 0xD1#8 dp
  | .cmpDpInd dp => encode1 0xD2#8 dp
  | .cmpSrIndY sr => encode1 0xD3#8 sr
  | .cmpDpX dp => encode1 0xD5#8 dp
  | .cmpDpIndLongY dp => encode1 0xD7#8 dp
  | .cmpAbsY a => encode2 0xD9#8 a
  | .cmpAbsX a => encode2 0xDD#8 a
  | .cmpLongX a => encode3 0xDF#8 a
  | .cpxImmX imm => encodeImm x 0xE0#8 imm
  | .cpxDp dp => encode1 0xE4#8 dp
  | .cpxAbs a => encode2 0xEC#8 a
  | .cpyImmX imm => encodeImm x 0xC0#8 imm
  | .cpyDp dp => encode1 0xC4#8 dp
  | .cpyAbs a => encode2 0xCC#8 a
  | .bitDp dp => encode1 0x24#8 dp
  | .bitAbs a => encode2 0x2C#8 a
  | .bitDpX dp => encode1 0x34#8 dp
  | .bitAbsX a => encode2 0x3C#8 a
  | .bitImmM imm => encodeImm m 0x89#8 imm
  | .aslDp dp => encode1 0x06#8 dp
  | .aslAcc => [0x0A#8]
  | .aslAbs a => encode2 0x0E#8 a
  | .aslDpX dp => encode1 0x16#8 dp
  | .aslAbsX a => encode2 0x1E#8 a
  | .lsrDp dp => encode1 0x46#8 dp
  | .lsrAcc => [0x4A#8]
  | .lsrAbs a => encode2 0x4E#8 a
  | .lsrDpX dp => encode1 0x56#8 dp
  | .lsrAbsX a => encode2 0x5E#8 a
  | .rolDp dp => encode1 0x26#8 dp
  | .rolAcc => [0x2A#8]
  | .rolAbs a => encode2 0x2E#8 a
  | .rolDpX dp => encode1 0x36#8 dp
  | .rolAbsX a => encode2 0x3E#8 a
  | .rorDp dp => encode1 0x66#8 dp
  | .rorAcc => [0x6A#8]
  | .rorAbs a => encode2 0x6E#8 a
  | .rorDpX dp => encode1 0x76#8 dp
  | .rorAbsX a => encode2 0x7E#8 a
  | .incAcc => [0x1A#8]
  | .incDp dp => encode1 0xE6#8 dp
  | .incAbs a => encode2 0xEE#8 a
  | .incDpX dp => encode1 0xF6#8 dp
  | .incAbsX a => encode2 0xFE#8 a
  | .decAcc => [0x3A#8]
  | .decDp dp => encode1 0xC6#8 dp
  | .decAbs a => encode2 0xCE#8 a
  | .decDpX dp => encode1 0xD6#8 dp
  | .decAbsX a => encode2 0xDE#8 a
  | .tsbDp dp => encode1 0x04#8 dp
  | .tsbAbs a => encode2 0x0C#8 a
  | .trbDp dp => encode1 0x14#8 dp
  | .trbAbs a => encode2 0x1C#8 a
  | .inx => [0xE8#8]
  | .iny => [0xC8#8]
  | .dex => [0xCA#8]
  | .dey => [0x88#8]
  | .bcc disp => encode1 0x90#8 disp
  | .bcs disp => encode1 0xB0#8 disp
  | .beq disp => encode1 0xF0#8 disp
  | .bne disp => encode1 0xD0#8 disp
  | .bmi disp => encode1 0x30#8 disp
  | .bpl disp => encode1 0x10#8 disp
  | .bvc disp => encode1 0x50#8 disp
  | .bvs disp => encode1 0x70#8 disp
  | .bra disp => encode1 0x80#8 disp
  | .brl disp => encode2 0x82#8 disp
  | .jmpPcAbs a => encode2 0x4C#8 a
  | .jmpPcInd a => encode2 0x6C#8 a
  | .jmpPcIndX a => encode2 0x7C#8 a
  | .jmlPcLong a => encode3 0x5C#8 a
  | .jmlPcIndLong a => encode2 0xDC#8 a
  | .jsrPcAbs a => encode2 0x20#8 a
  | .jsrPcIndX a => encode2 0xFC#8 a
  | .jsl a => encode3 0x22#8 a
  | .rts => [0x60#8]
  | .rtl => [0x6B#8]
  | .mvn dst src => [0x54#8, dst, src]
  | .mvp dst src => [0x44#8, dst, src]
  | .brk sig => encode1 0x00#8 sig
  | .cop sig => encode1 0x02#8 sig
  | .rti => [0x40#8]
  | .wai => [0xCB#8]
  | .stp => [0xDB#8]
  | .pea imm => encode2 0xF4#8 imm
  | .pei dp => encode1 0xD4#8 dp
  | .per disp => encode2 0x62#8 disp
  | .pha => [0x48#8]
  | .pla => [0x68#8]
  | .phx => [0xDA#8]
  | .plx => [0xFA#8]
  | .phy => [0x5A#8]
  | .ply => [0x7A#8]
  | .php => [0x08#8]
  | .plp => [0x28#8]
  | .phb => [0x8B#8]
  | .plb => [0xAB#8]
  | .phd => [0x0B#8]
  | .pld => [0x2B#8]
  | .phk => [0x4B#8]
  | .rep mask => encode1 0xC2#8 mask
  | .sep mask => encode1 0xE2#8 mask
  | .wdm sig => encode1 0x42#8 sig
  | .clc => [0x18#8]
  | .sec => [0x38#8]
  | .cli => [0x58#8]
  | .sei => [0x78#8]
  | .cld => [0xD8#8]
  | .sed => [0xF8#8]
  | .clv => [0xB8#8]
  | .nop => [0xEA#8]
  | .xce => [0xFB#8]
  | .tax => [0xAA#8]
  | .tay => [0xA8#8]
  | .txa => [0x8A#8]
  | .tya => [0x98#8]
  | .tsx => [0xBA#8]
  | .txs => [0x9A#8]
  | .txy => [0x9B#8]
  | .tyx => [0xBB#8]
  | .tcd => [0x5B#8]
  | .tdc => [0x7B#8]
  | .tcs => [0x1B#8]
  | .tsc => [0x3B#8]
  | .xba => [0xEB#8]

end Sys2Proof
end

