-- ==== Sys2Proof/Machine/Fetch.lean ====
section
/-! DEFINITION. The fetch of an instruction (30_encoding.md R113, R114), what wakes the core, and the interrupt
transitions of a step (60_exceptions.md R380). -/

namespace Sys2Proof.Machine

/-- One byte at `PBR:PC`; PC moves on inside its bank (30_encoding.md R113, 10_state.md R28). -/
def State.fetchByte (kind : AccessKind) (s : State) : Byte × State :=
  let b := s.busRead (joinAddr s.regs.pbr s.regs.pc) kind
  (b.1, b.2.mapRegs fun r => { r with pc := r.pc + 1 })

/-- `n` operand bytes at ascending addresses (30_encoding.md R113). -/
def State.fetchOperands : Nat → State → List Byte × State
  | 0, s => ([], s)
  | n + 1, s =>
    let b := s.fetchByte .data
    let rest := State.fetchOperands n b.2
    (b.1 :: rest.1, rest.2)

/-- The bytes of a fetched instruction and the state after the fetch. -/
structure Fetched where
  opcode : Byte
  operands : List Byte
  state : State

/-- The fetch of one instruction: the last-fetch record, the opcode, as many operand bytes as its format has where
P.M and P.X are as they stand (30_encoding.md R112, R114). -/
def State.fetchInstr (s : State) : Fetched :=
  let op := { s with fetchPbr := s.regs.pbr, fetchPc := s.regs.pc }.fetchByte .opcodeFetch
  let rest := op.2.fetchOperands ((opcodeShape op.1).operandBytes s.regs.p.m s.regs.p.x)
  { opcode := op.1, operands := rest.1, state := rest.2 }

/-- The instruction the fetched bytes make (30_encoding.md R115). -/
def Fetched.instr (f : Fetched) (m x : Bool) : Instr :=
  (opcodeShape f.opcode).build m x (f.operands.getD 0 0) (f.operands.getD 1 0) (f.operands.getD 2 0)

/-- The trace record of an instruction fetched at `s0` that ended at `s` (10_state.md R46). -/
def State.recordTrace (s : State) (f : Fetched) (s0 : State) : State :=
  { s with
    trace := some
      { opcode := f.opcode
        bank := s0.regs.pbr
        pc := s0.regs.pc
        operands := f.operands
        cycles := s.clock.cyclesSpent - s0.clock.cyclesSpent } }

/-- `WakeCondition()` (60_exceptions.md R411). -/
def State.wakes (s : State) : Bool :=
  s.pins.nmiPending || (!s.pins.irqbIn && (!s.regs.p.i || s.params.waiWakeOnMaskedIrq))

/-- Case 4 of a step where the core wakes (60_exceptions.md R380). -/
def State.awake (s : State) : State := { s with pins := { s.pins with readyOut := true } }

/-- Case 5 of a step, an NMI is taken (60_exceptions.md R380, R385). -/
def State.takeNmi (s : State) : State :=
  let s1 := { s with pins := { s.pins with nmiPending := false, coarse := .nmi } }
  let s2 := (s1.interruptEntry .nmi).settle (7 + s.regs.nativeExtra) 0 s1
  { s2 with pins := { s2.pins with coarse := .execute } }

/-- Case 6 of a step, an IRQ is taken (60_exceptions.md R380, R384). -/
def State.takeIrq (s : State) : State :=
  let s1 := { s with pins := { s.pins with coarse := .irq } }
  let s2 := (s1.interruptEntry .irq).settle (7 + s.regs.nativeExtra) 0 s1
  { s2 with pins := { s2.pins with coarse := .execute } }

/-- Puts a byte where the read mapping finds an address, in the ROM image too; a page that resolves to no storage is
mapped to the fast-RAM page of its number first. -/
def State.plant (a : Addr) (v : Byte) (s : State) : State :=
  match s.resolve .read a with
  | .mem pg _ _ => { s with bus.mem := s.bus.mem.put (pageLoc pg a) v }
  | _ =>
    let page : Page := { store := .fast (bankOf a), page := highByte (offsetOf a) }
    let edit : PageEdit :=
      { dir := .read, bank := bankOf a, page := highByte (offsetOf a), target := some (.mem page false none) }
    { s with bus := { s.bus.editPage edit with mem := s.bus.mem.put (pageLoc page a) v } }

/-- Bytes planted at ascending offsets from `bank:off`. -/
def State.plantBytes (s : State) (bank : Byte) (off : Word) : List Byte → State
  | [] => s
  | b :: rest => (s.plant (joinAddr bank off) b).plantBytes bank (off + 1) rest

end Sys2Proof.Machine
end

