-- ==== Sys2Proof/Machine/Step.lean ====
section
/-! DEFINITION. One step of the core (60_exceptions.md R380), and an instruction placed where a step fetches. -/

namespace Sys2Proof.Machine

/-- Case 7 of a step: one instruction is fetched and executed to completion, and traced (60_exceptions.md R380,
30_encoding.md R114, 10_state.md R46). -/
def State.runInstr (s : State) : Host.Outcome State Fault Refusal :=
  let f := s.fetchInstr
  match exec (f.instr s.regs.p.m s.regs.p.x) f.state with
  | .next t => .next (t.recordTrace f s)
  | .fault r => .fault r
  | .refused r => .refused r

/-- Cases 5 to 7 of a step (60_exceptions.md R380, R386). -/
def State.runCase (s : State) : Host.Outcome State Fault Refusal :=
  if s.pins.nmiPending then .next s.takeNmi
  else if !s.pins.irqbIn && !s.regs.p.i then .next s.takeIrq
  else s.runInstr

/-- `Step()` (60_exceptions.md R380). A step that is stopped or that waits charges one internal cycle
(70_reset_and_hazards.md R467). -/
def step (s : State) : Host.Outcome State Fault Refusal :=
  if !s.pins.resbIn then .next s.heldInReset
  else if s.pins.coarse = .reset then .next s.resetSequence
  else if !s.pins.enabled then .next (s.internal 1)
  else if !s.pins.readyOut && !s.wakes then .next (s.internal 1)
  else s.awake.runCase

/-- `s` with the instruction whose bits are `w` at `PBR:PC`, in a state whose next step fetches: not in reset, not
stopped, not waiting, no interrupt requested (log 4). -/
def State.withFetchWord (s : State) (nbits w : Nat) : State :=
  { s with
    pins := { s.pins with
      resbIn := true, irqbIn := true, nmiPending := false, readyOut := true, enabled := true,
      coarse := .execute } }.plantBytes s.regs.pbr s.regs.pc (tableBytes (w % 2 ^ nbits))

end Sys2Proof.Machine
end

