-- ==== Sys2Proof/Machine/HostPort.lean ====
section
/-! DEFINITION. What the host does between steps: the inputs (10_state.md R39 to R41, 70_reset_and_hazards.md R436, R461),
`initialize` (20_memory.md R82), the Intel-HEX loader and the dump (R97), the last-fetch record (10_state.md R46). -/

namespace Sys2Proof.Machine

/-- `reset()`: the line goes low, `state` is Reset at once, the hold counter starts (60_exceptions.md R380,
70_reset_and_hazards.md R436). -/
def State.assertReset (s : State) : State :=
  { s with pins := { s.pins with resbIn := false, coarse := .reset, resetHold := s.params.resetHoldCount } }

/-- The host releases the reset line (60_exceptions.md R382). -/
def State.releaseReset (s : State) : State := { s with pins := { s.pins with resbIn := true, resetHold := none } }

/-- `set_irq(level)` (10_state.md R40). -/
def State.setIrq (level : Bool) (s : State) : State := { s with pins := { s.pins with irqbIn := !level } }

/-- `set_nmi(pulse)` (10_state.md R41). -/
def State.setNmi (pulse : Bool) (s : State) : State :=
  { s with pins := { s.pins with nmiPending := s.pins.nmiPending || pulse } }

/-- The environment's speed gate (70_reset_and_hazards.md R461). -/
def State.setSpeedGate (gate : Bool) (s : State) : State := { s with clock := { s.clock with speedGate := gate } }

/-- `program_counter_of_last_fetch()` (10_state.md R46). -/
def State.programCounterOfLastFetch (s : State) : Byte × Word := (s.fetchPbr, s.fetchPc)

/-- Puts a byte into the storage a write of the host reaches: where the write mapping finds the address, a read-only
page included, on that page alone and not on its shadow page; nothing where it finds no storage (20_memory.md R97). DESIGN
CHOICE (log 16). -/
def State.poke (s : State) (a : Addr) (v : Byte) : State :=
  match s.resolve .write a with
  | .mem pg _ _ => { s with bus.mem := s.bus.mem.put (pageLoc pg a) v }
  | .empty => s
  | .io => s

/-- Bytes put at ascending offsets of a bank. -/
def State.pokeBytes (s : State) (bank : Byte) (off : Word) : List Byte → State
  | [] => s
  | b :: rest => (s.poke (joinAddr bank off) b).pokeBytes bank (off + 1) rest

/-- `n` bytes from `bank:off` on, read without side effects. -/
def State.peekBytes (s : State) (bank : Byte) (off : Word) : Nat → List Byte
  | 0 => []
  | n + 1 => s.peek (joinAddr bank off) :: s.peekBytes bank (off + 1) n

/-- `dump_bank_page(bank, page, page_count, out)` (20_memory.md R97). DESIGN CHOICE (log 21): the spec gives the signature
alone; the bytes are those of reads without side effects through the read mapping (an I/O page answers as to kind NoOp, the
Empty page 0x00), and offsets past page 0xFF wrap inside the bank. -/
def State.dumpBankPage (s : State) (bank page : Byte) (pageCount : Nat) : List Byte :=
  s.peekBytes bank (joinWord page 0x00) (256 * pageCount)

/-! ## Intel-HEX (20_memory.md R97) -/

/-- The value of a hexadecimal character. -/
def hexValue (c : Char) : Option Nat :=
  if '0'.toNat ≤ c.toNat ∧ c.toNat ≤ '9'.toNat then some (c.toNat - '0'.toNat)
  else if 'A'.toNat ≤ c.toNat ∧ c.toNat ≤ 'F'.toNat then some (c.toNat - 'A'.toNat + 10)
  else if 'a'.toNat ≤ c.toNat ∧ c.toNat ≤ 'f'.toNat then some (c.toNat - 'a'.toNat + 10)
  else none

/-- Pairs of hexadecimal characters as bytes. -/
def hexBytes : List Char → Option (List Byte)
  | [] => some []
  | [_] => none
  | h :: l :: rest =>
    match hexValue h, hexValue l, hexBytes rest with
    | some h, some l, some bs => some (BitVec.ofNat 8 (16 * h + l) :: bs)
    | _, _, _ => none

/-- One record: data for an address of the bank, or the end of the file. -/
inductive HexRecord
  | data (address : Word) (bytes : List Byte)
  | eof
deriving DecidableEq, Repr

/-- The record the bytes of a line make: the length agrees, the bytes with their checksum sum to zero, the type is 00 or
01 (20_memory.md R97). -/
def hexRecord (bs : List Byte) : Option HexRecord :=
  match bs with
  | len :: ah :: al :: ty :: rest =>
    if rest.length = len.toNat + 1 ∧ bs.foldl (· + ·) 0 = 0 then
      if ty = 0x00 then some (.data (joinWord ah al) (rest.take len.toNat))
      else if ty = 0x01 then some .eof
      else none
    else none
  | _ => none

/-- The lines of a text; line ends are LF, CR before them is dropped, and a line end closes the last line or the end of
the text does. -/
def textLines : List Char → List Char → List (List Char)
  | line, [] => [line.reverse]
  | line, '\n' :: rest => line.reverse :: textLines [] rest
  | line, '\r' :: rest => textLines line rest
  | line, c :: rest => textLines (c :: line) rest

/-- The data records before the end record, empty lines skipped; `none` is a parse failure. -/
def hexRecords : List (List Char) → Option (List (Word × List Byte))
  | [] => some []
  | [] :: rest => hexRecords rest
  | (':' :: cs) :: rest =>
    match (hexBytes cs).bind hexRecord with
    | some (.data a bs) => (hexRecords rest).map ((a, bs) :: ·)
    | some .eof => some []
    | none => none
  | _ :: _ => none

/-- `load_intel_hex(text, bank)` (20_memory.md R97): `none` is a parse failure, which loads nothing (log 16). -/
def State.loadIntelHex (s : State) (text : List Char) (bank : Byte) : Option State :=
  (hexRecords (textLines [] text)).map fun rs => rs.foldl (fun s r => s.pokeBytes bank r.1 r.2) s

/-! ## Initialization (20_memory.md R82) -/

/-- A bank of storage filled from a list of bytes. -/
def Memory.putBytes (m : Memory) (store : StoreBank) (off : Nat) : List Byte → Memory
  | [] => m
  | b :: rest => (m.put { store := store, offset := BitVec.ofNat 16 off } b).putBytes store (off + 1) rest

/-- A ROM image, its first byte at bank 0 of the image. -/
def Memory.putRom (m : Memory) (at_ : Nat) : List Byte → Memory
  | [] => m
  | b :: rest =>
    (m.put { store := .rom (BitVec.ofNat 8 (at_ / 2 ^ 16)), offset := BitVec.ofNat 16 at_ } b).putRom (at_ + 1) rest

/-- `PowerOnState` (00_scope.md R5, 70_reset_and_hazards.md R431): the register file before the first reset. DEDUCED (log 20):
the draw takes in the pin-like flags that 10_state.md R20 counts to the register file and the NMI latch that 90_conflicts.md C9
adds to it; `resb_in` and `state` are not drawn, R431 gives them. -/
structure PowerOn where
  regs : Regs
  readyOut : Bool
  irqbIn : Bool
  enabled : Bool
  nmiPending : Bool
deriving DecidableEq, Repr

/-- The parameters of 00_scope.md R5 that `initialize` does not take itself, but for the collaborator (log 9). -/
structure Platform where
  /-- `BankMapInit`: the descriptors of banks other than the flat platform's (20_memory.md R83). A bank holds a part of the
  ROM image where its descriptor names ROM: the banks of `ROM_IMAGE`. -/
  banks : List (Byte × BankDesc)
  /-- `PageMap`: the pages that do not follow their bank's descriptor (20_memory.md R77, R84). -/
  pages : List PageEdit
  /-- `fast_step` (70_reset_and_hazards.md R460). -/
  fastStep : Nat
  /-- `slow_step` (70_reset_and_hazards.md R460). -/
  slowStep : Nat
  /-- `speed_gate` (70_reset_and_hazards.md R461). -/
  speedGate : Bool
  powerOn : PowerOn
  /-- The parameters a step consults; `initialize` gives `FAST_RAM_BANKS`. -/
  params : Params
deriving DecidableEq, Repr

/-- The storage `initialize` fills from the images it is given (20_memory.md R82). -/
def Memory.ofImages (image slowE0 slowE1 : List Byte) : Memory :=
  let m : Memory := { fast := [], slow := [], rom := [] }
  ((m.putRom 0 image).putBytes (.slow .e0) 0 (slowE0.take (2 ^ 16))).putBytes (.slow .e1) 0 (slowE1.take (2 ^ 16))

/-- The machine at power-on, reset asserted (70_reset_and_hazards.md R430, R431): what the platform gives, no countdown, the
clock's counts and the count of I/O accesses at 0, no record yet (logs 7, 8, 9 and 20). -/
def Platform.powered (p : Platform) (mem : Memory) (fastRamBanks : Nat) : State where
  regs := p.powerOn.regs
  pins :=
    { resbIn := false, irqbIn := p.powerOn.irqbIn, nmiPending := p.powerOn.nmiPending, readyOut := p.powerOn.readyOut,
      enabled := p.powerOn.enabled, coarse := .reset, resetHold := none }
  clock := { ts := 0, fastStep := p.fastStep, slowStep := p.slowStep, cyclesSpent := 0, speedGate := p.speedGate }
  bus := Bus.edit { mem := mem, bankMap := [], readPages := [], writePages := [], ioCount := 0 } p.banks p.pages
  fetchPbr := 0x00
  fetchPc := 0x0000
  trace := none
  params := { p.params with fastRamBanks := fastRamBanks }

/-- `initialize(rom_image, slow_ram_bank_e0, slow_ram_bank_e1, fast_ram_bank_count)`: the error -1 where the ROM is
missing, -2 where the bank count is outside 4 to 256 (20_memory.md R82); else the machine of the platform at power-on. -/
def initializeCore (p : Platform) (rom : Option (List Byte)) (slowE0 slowE1 : List Byte) (fastRamBanks : Nat) :
    Except Int State :=
  match rom with
  | none => .error (-1)
  | some image =>
    if fastRamBanks < 4 ∨ 256 < fastRamBanks then .error (-2)
    else .ok (p.powered (Memory.ofImages image slowE0 slowE1) fastRamBanks)

end Sys2Proof.Machine
end

