-- ==== Sys2Proof/Safety.lean ====
section
/-! DEFINITION. The terms of the claims: which states run, what a step must keep, what a read of the memory without the
clock gives, what an instruction may change, and the cycles it takes. -/

namespace Sys2Proof.Machine

/-! ## Which states run -/

/-- None of these addresses resolves to the I/O gate (20_memory.md R77). -/
def State.OffIo (s : State) (dir : Dir) (as : List Addr) : Prop := ∀ a ∈ as, s.resolve dir a ≠ .io

/-- Every page of every bank is its own page of storage and may be written: the flat platform of 92_eei_decisions.md D28
with 256 banks (20_memory.md R83). -/
structure State.Flat (s : State) : Prop where
  banks : s.params.fastRamBanks = 256
  bankMap : s.bus.bankMap = []
  readPages : s.bus.readPages = []
  writePages : s.bus.writePages = []

/-- The core is neither in reset nor stopped nor waiting without a cause to wake: a step reaches cases 5 to 7 of
60_exceptions.md R380. -/
structure State.Running (s : State) : Prop where
  released : s.pins.resbIn = true
  sequenced : s.pins.coarse ≠ .reset
  enabled : s.pins.enabled = true
  ready : s.pins.readyOut = true ∨ s.wakes = true

/-- A step reaches case 7 of 60_exceptions.md R380: it fetches an instruction. -/
structure State.Fetching (s : State) : Prop where
  running : s.Running
  noNmi : s.pins.nmiPending = false
  noIrq : s.pins.irqbIn = true ∨ s.regs.p.i = true

/-! ## What every step keeps -/

/-- I-EMU and I-IDX of 10_state.md R36. -/
structure Regs.Ok (r : Regs) : Prop where
  emu : r.e = true → r.p.m = true ∧ r.p.x = true ∧ highByte r.s = 0x01
  idx : r.p.x = true → highByte r.x = 0x00 ∧ highByte r.y = 0x00

/-- What 00_scope.md R5 asks of a platform: positive steps, the slow one not the smaller, a draw with the invariants of
10_state.md R36. -/
structure Platform.Legal (p : Platform) : Prop where
  positive : 0 < p.fastStep
  steps : p.fastStep ≤ p.slowStep
  regs : p.powerOn.regs.Ok

/-- The invariant of the machine: 10_state.md R36 and R44, 70_reset_and_hazards.md R460, and the canonical form of the
memory and of the maps. -/
structure State.Inv (s : State) : Prop where
  regs : s.regs.Ok
  coarse : s.pins.coarse = .reset ∨ s.pins.coarse = .execute
  steps : s.clock.fastStep ≤ s.clock.slowStep
  mem : s.bus.mem.wf = true
  bankMap : entriesWf 0 0x100 s.bus.bankMap = true
  readPages : entriesWf 0 0x10000 s.bus.readPages = true
  writePages : entriesWf 0 0x10000 s.bus.writePages = true

/-! ## Memory as a reader without a clock sees it -/

/-- The datum at an effective address, by peeks (40_addressing.md R146). -/
def State.datum (s : State) (w : Width) (e : Ea) : Word :=
  match w with
  | .w8 => zeroExt (s.peek e.addr)
  | .w16 => joinWord (s.peek (e.next s.params.data16CrossesBank)) (s.peek e.addr)

/-- The two bytes at `bank:off`, by peeks. -/
def State.word (s : State) (bank : Byte) (samePage : Bool) (off : Word) : Word :=
  joinWord (s.peek (joinAddr bank (nextOffset samePage off))) (s.peek (joinAddr bank off))

/-- The three bytes at `00:off`, by peeks. -/
def State.long (s : State) (off : Word) : Addr :=
  joinAddr (s.peek (joinAddr 0x00 (off + 2))) (s.word 0x00 false off)

/-- The bytes a store writes, in the order of 40_addressing.md R147. -/
def State.cellsUp (s : State) (w : Width) (e : Ea) (v : Word) : List (Addr × Byte) :=
  match w with
  | .w8 => [(e.addr, lowByte v)]
  | .w16 => [(e.addr, lowByte v), (e.next s.params.data16CrossesBank, highByte v)]

/-- The bytes a read-modify-write writes back, in the order of 43_rmw.md R240. -/
def State.cellsDown (s : State) (w : Width) (e : Ea) (v : Word) : List (Addr × Byte) :=
  match w with
  | .w8 => [(e.addr, lowByte v)]
  | .w16 => [(e.next s.params.data16CrossesBank, highByte v), (e.addr, lowByte v)]

/-! ## The addresses an instruction reads and writes -/

/-- Of `n` bytes from `bank:off` on. -/
def bytesAddrs (bank : Byte) (off : Word) : Nat → List Addr
  | 0 => []
  | n + 1 => joinAddr bank off :: bytesAddrs bank (off + 1) n

/-- Of the two bytes at `bank:off`. -/
def wordAddrs (bank : Byte) (samePage : Bool) (off : Word) : List Addr :=
  [joinAddr bank off, joinAddr bank (nextOffset samePage off)]

/-- Of the pointer bytes a mode reads (40_addressing.md R155, R156, R162 to R164, R173). -/
def State.pointerAddrs (s : State) : Mode → List Addr
  | .dpInd b | .dpIndY b => wordAddrs 0x00 s.regs.pageWrap (s.regs.dpAddr b 0)
  | .dpXInd b => wordAddrs 0x00 s.regs.pageWrap (s.regs.dpAddr b s.regs.x)
  | .dpIndLong b | .dpIndLongY b => bytesAddrs 0x00 (s.regs.dpAddr b 0) 3
  | .srIndY b => wordAddrs 0x00 false (s.regs.srAddr b)
  | .abs _ | .long _ | .dp _ | .absX _ | .longX _ | .absY _ | .dpX _ | .dpY _ | .sr _ => []

/-- Of a datum (40_addressing.md R146). -/
def State.dataAddrs (s : State) (w : Width) (e : Ea) : List Addr :=
  match w with
  | .w8 => [e.addr]
  | .w16 => [e.addr, e.next s.params.data16CrossesBank]

/-- Of the pointer of a mode and of the datum it leads to. -/
def State.operandAddrs (s : State) (w : Width) (md : Mode) : List Addr :=
  s.pointerAddrs md ++ s.dataAddrs w (s.effective md).1

/-! ## Bytes of storage -/

/-- The byte of storage a read of an address reaches. -/
def State.readLoc (s : State) (a : Addr) : Option Loc :=
  match s.resolve .read a with
  | .mem pg _ _ => some (pageLoc pg a)
  | .empty => none
  | .io => none

/-- The bytes of storage a write to an address is delivered to (20_memory.md R76, R84). -/
def State.writeLocs (s : State) (a : Addr) : List Loc :=
  match s.resolve .write a with
  | .mem pg false none => [pageLoc pg a]
  | .mem pg false (some sh) => [pageLoc pg a, pageLoc sh a]
  | .mem _ true _ => []
  | .empty => []
  | .io => []

/-! ## What an instruction may change -/

/-- From `s` to `t` nothing changes but registers and the clock. -/
structure OnlyRegs (s t : State) : Prop where
  pins : t.pins = s.pins
  bus : t.bus = s.bus
  fetchPbr : t.fetchPbr = s.fetchPbr
  fetchPc : t.fetchPc = s.fetchPc
  trace : t.trace = s.trace
  params : t.params = s.params
  bytes : ∀ a, t.peek a = s.peek a

/-- From `s` to `t` nothing changes but registers, the clock and the bytes written: `cells` in order, each delivered where
`s` resolves it. An address that reads none of the bytes of storage written reads as before. -/
structure OnlyStores (s t : State) (cells : List (Addr × Byte)) : Prop where
  pins : t.pins = s.pins
  fetchPbr : t.fetchPbr = s.fetchPbr
  fetchPc : t.fetchPc = s.fetchPc
  trace : t.trace = s.trace
  params : t.params = s.params
  bankMap : t.bus.bankMap = s.bus.bankMap
  readPages : t.bus.readPages = s.bus.readPages
  writePages : t.bus.writePages = s.bus.writePages
  ioCount : t.bus.ioCount = s.bus.ioCount
  stored : t.bus.mem = cells.foldl (fun m c => m.writeTarget (s.resolve .write c.1) c.1 c.2) s.bus.mem
  others : ∀ a, (∀ c ∈ cells, ∀ l ∈ s.writeLocs c.1, s.readLoc a ≠ some l) → t.peek a = s.peek a

/-- `i` completes at `s`: the registers become `r`, nothing else changes but the clock. -/
def Becomes (i : Instr) (s : State) (r : Regs) : Prop := ∃ t, exec i s = .next t ∧ t.regs = r ∧ OnlyRegs s t

/-- `i` completes at `s`: the registers become `r`, the bytes `cells` are stored, nothing else changes but the clock. -/
def Stores (i : Instr) (s : State) (r : Regs) (cells : List (Addr × Byte)) : Prop :=
  ∃ t, exec i s = .next t ∧ t.regs = r ∧ OnlyStores s t cells

/-- P with Z and N of a result of 8 bits (10_state.md R33). -/
def Status.nz8 (p : Status) (v : Byte) : Status := { p with z := decide (v = 0), n := v.getLsbD 7 }

/-- P with Z and N of a result of 16 bits (10_state.md R33). -/
def Status.nz16 (p : Status) (v : Word) : Status := { p with z := decide (v = 0), n := v.getLsbD 15 }

/-- A with its low byte replaced (10_state.md R21). -/
def Regs.withLowA (r : Regs) (v : Byte) : Word := joinWord (highByte r.a) v

/-- The registers of the machine with PC moved on. -/
def Regs.at (r : Regs) (pc : Word) : Regs := { r with pc := pc }

/-! ## The stack (45_stack.md R280 to R283) -/

/-- Whether the stack accesses of `u` stay in page 0x01: emulation mode, and `u` is not in the quirk set. -/
def State.confined (s : State) (u : StackUser) : Bool := s.regs.e && !s.quirk u

/-- Where bytes pushed one after the other go: the first at `00:sp`. -/
def pushedCells (confined : Bool) (sp : Word) : List Byte → List (Addr × Byte)
  | [] => []
  | b :: bs => (joinAddr 0x00 sp, b) :: pushedCells confined (stackDown confined sp) bs

/-- Where `n` pulls one after the other read, S being `sp` before the first. -/
def pulledAddrs (confined : Bool) (sp : Word) : Nat → List Addr
  | 0 => []
  | n + 1 => joinAddr 0x00 (stackUp confined sp) :: pulledAddrs confined (stackUp confined sp) n

/-- S after `n` pushes, or after `n` increments of pulls, by `f`. -/
def stackMove (f : Word → Word) : Nat → Word → Word
  | 0, sp => sp
  | n + 1, sp => stackMove f n (f sp)

/-- S at the end of an instruction: page 0x01 is imposed again after a member of the quirk set (45_stack.md R283). -/
def State.latched (s : State) (u : StackUser) (sp : Word) : Word :=
  if s.regs.e && s.quirk u then joinWord 0x01 (lowByte sp) else sp

/-- S after `n` pushes by `u`. -/
def State.pushedS (s : State) (u : StackUser) (n : Nat) : Word :=
  s.latched u (stackMove (stackDown (s.confined u)) n s.regs.s)

/-- S after `n` pulls by `u`. -/
def State.pulledS (s : State) (u : StackUser) (n : Nat) : Word :=
  s.latched u (stackMove (stackUp (s.confined u)) n s.regs.s)

/-- The byte the `n`-th pull of `u` reads, counting from 1. -/
def State.pulledByte (s : State) (u : StackUser) (n : Nat) : Byte :=
  s.peek (joinAddr 0x00 (stackMove (stackUp (s.confined u)) n s.regs.s))

/-- Where the first `n` pulls of `u` read. -/
def State.pullAddrs (s : State) (u : StackUser) (n : Nat) : List Addr := pulledAddrs (s.confined u) s.regs.s n

/-- The bytes `u` pushes, and where. -/
def State.pushCells (s : State) (u : StackUser) (bs : List Byte) : List (Addr × Byte) :=
  pushedCells (s.confined u) s.regs.s bs

/-- A value as the bytes a push at a width moves: high byte first (45_stack.md R284). -/
def Width.pushBytes : Width → Word → List Byte
  | .w8, v => [lowByte v]
  | .w16, v => [highByte v, lowByte v]

/-- The value a pull at a width gives, zero-extended: low byte first (45_stack.md R284). -/
def State.pulledAt (s : State) (u : StackUser) : Width → Word
  | .w8 => zeroExt (s.pulledByte u 1)
  | .w16 => joinWord (s.pulledByte u 2) (s.pulledByte u 1)

/-! ## Entries and fetches -/

/-- Whether the stack accesses of an entry stay in page 0x01. -/
def State.entryConfined (s : State) (kind : EntryKind) : Bool := s.regs.e && !s.entryQuirk kind

/-- The bytes an entry pushes (60_exceptions.md R390). -/
def State.frameBytes (s : State) (kind : EntryKind) : List Byte :=
  (if s.regs.e then [] else [s.regs.pbr]) ++
    [highByte s.regs.pc, lowByte s.regs.pc, pushedStatus s.params.breakBit s.regs.e s.regs.p kind]

/-- The bytes an entry pushes, and where. -/
def State.frameCells (s : State) (kind : EntryKind) : List (Addr × Byte) :=
  pushedCells (s.entryConfined kind) s.regs.s (s.frameBytes kind)

/-- Where an entry reads its vector (60_exceptions.md R391). -/
def State.vectorAddrs (s : State) (kind : EntryKind) : List Addr := wordAddrs 0x00 false (vectorOffset s.regs.e kind)

/-- None of an entry's accesses is to the I/O gate. -/
abbrev State.EntryOffIo (s : State) (kind : EntryKind) : Prop :=
  s.OffIo .write ((s.frameCells kind).map Prod.fst) ∧ s.OffIo .read (s.vectorAddrs kind)

/-- Where a return from an entry reads, its pulls by `Pull8N` where `full`: the pulls after the first start at S as
`Normalize()` leaves it (49_system.md R372, log 15). -/
def State.returnAddrs (s : State) (full : Bool) : List Addr :=
  let up := stackUp (s.regs.e && !full)
  joinAddr 0x00 (up s.regs.s) ::
    pulledAddrs (s.regs.e && !full) (if s.regs.e then joinWord 0x01 (lowByte (up s.regs.s)) else up s.regs.s)
      (if s.regs.e then 2 else 3)

/-- S after an entry. -/
def State.frameS (s : State) (kind : EntryKind) : Word :=
  let sp := stackMove (stackDown (s.entryConfined kind)) (s.frameBytes kind).length s.regs.s
  if s.regs.e && s.entryQuirk kind then joinWord 0x01 (lowByte sp) else sp

/-- The state after the fetch of an instruction of `n` bytes, its clock being `c` (30_encoding.md R114). -/
def State.afterFetch (s : State) (n : Nat) (c : Clock) : State :=
  { s with
    regs := { s.regs with pc := s.regs.pc + BitVec.ofNat 16 n }
    clock := c
    fetchPbr := s.regs.pbr
    fetchPc := s.regs.pc }

/-! ## Forms of instructions -/

/-- LDA through memory, with the mode of each form (R191). -/
def ldaForms (a : Word) (l : Addr) (b : Byte) : List (Instr × Mode) :=
  [(.ldaDpXInd b, .dpXInd b), (.ldaSr b, .sr b), (.ldaDp b, .dp b), (.ldaDpIndLong b, .dpIndLong b),
    (.ldaAbs a, .abs a), (.ldaLong l, .long l), (.ldaDpIndY b, .dpIndY b), (.ldaDpInd b, .dpInd b),
    (.ldaSrIndY b, .srIndY b), (.ldaDpX b, .dpX b), (.ldaDpIndLongY b, .dpIndLongY b), (.ldaAbsY a, .absY a),
    (.ldaAbsX a, .absX a), (.ldaLongX l, .longX l)]

/-- LDX through memory, with the mode of each form (R192). -/
def ldxForms (a : Word) (b : Byte) : List (Instr × Mode) :=
  [(.ldxDp b, .dp b), (.ldxAbs a, .abs a), (.ldxDpY b, .dpY b), (.ldxAbsY a, .absY a)]

/-- LDY through memory, with the mode of each form (R193). -/
def ldyForms (a : Word) (b : Byte) : List (Instr × Mode) :=
  [(.ldyDp b, .dp b), (.ldyAbs a, .abs a), (.ldyDpX b, .dpX b), (.ldyAbsX a, .absX a)]

/-- STA through memory, with the mode of each form (R194). -/
def staForms (a : Word) (l : Addr) (b : Byte) : List (Instr × Mode) :=
  [(.staDpXInd b, .dpXInd b), (.staSr b, .sr b), (.staDp b, .dp b), (.staDpIndLong b, .dpIndLong b),
    (.staAbs a, .abs a), (.staLong l, .long l), (.staDpIndY b, .dpIndY b), (.staDpInd b, .dpInd b),
    (.staSrIndY b, .srIndY b), (.staDpX b, .dpX b), (.staDpIndLongY b, .dpIndLongY b), (.staAbsY a, .absY a),
    (.staAbsX a, .absX a), (.staLongX l, .longX l)]

/-- STX through memory, with the mode of each form (R195). -/
def stxForms (a : Word) (b : Byte) : List (Instr × Mode) :=
  [(.stxDp b, .dp b), (.stxAbs a, .abs a), (.stxDpY b, .dpY b)]

/-- STY through memory, with the mode of each form (R196). -/
def styForms (a : Word) (b : Byte) : List (Instr × Mode) :=
  [(.styDp b, .dp b), (.styAbs a, .abs a), (.styDpX b, .dpX b)]

/-- STZ through memory, with the mode of each form (R197). -/
def stzForms (a : Word) (b : Byte) : List (Instr × Mode) :=
  [(.stzDp b, .dp b), (.stzDpX b, .dpX b), (.stzAbs a, .abs a), (.stzAbsX a, .absX a)]

/-- ADC through memory, with the mode of each form (R211). -/
def adcForms (a : Word) (l : Addr) (b : Byte) : List (Instr × Mode) :=
  [(.adcDpXInd b, .dpXInd b), (.adcSr b, .sr b), (.adcDp b, .dp b), (.adcDpIndLong b, .dpIndLong b),
    (.adcAbs a, .abs a), (.adcLong l, .long l), (.adcDpIndY b, .dpIndY b), (.adcDpInd b, .dpInd b),
    (.adcSrIndY b, .srIndY b), (.adcDpX b, .dpX b), (.adcDpIndLongY b, .dpIndLongY b), (.adcAbsY a, .absY a),
    (.adcAbsX a, .absX a), (.adcLongX l, .longX l)]

/-- SBC through memory, with the mode of each form (R215). -/
def sbcForms (a : Word) (l : Addr) (b : Byte) : List (Instr × Mode) :=
  [(.sbcDpXInd b, .dpXInd b), (.sbcSr b, .sr b), (.sbcDp b, .dp b), (.sbcDpIndLong b, .dpIndLong b),
    (.sbcAbs a, .abs a), (.sbcLong l, .long l), (.sbcDpIndY b, .dpIndY b), (.sbcDpInd b, .dpInd b),
    (.sbcSrIndY b, .srIndY b), (.sbcDpX b, .dpX b), (.sbcDpIndLongY b, .dpIndLongY b), (.sbcAbsY a, .absY a),
    (.sbcAbsX a, .absX a), (.sbcLongX l, .longX l)]

/-- AND through memory, with the mode of each form (R218). -/
def andForms (a : Word) (l : Addr) (b : Byte) : List (Instr × Mode) :=
  [(.andDpXInd b, .dpXInd b), (.andSr b, .sr b), (.andDp b, .dp b), (.andDpIndLong b, .dpIndLong b),
    (.andAbs a, .abs a), (.andLong l, .long l), (.andDpIndY b, .dpIndY b), (.andDpInd b, .dpInd b),
    (.andSrIndY b, .srIndY b), (.andDpX b, .dpX b), (.andDpIndLongY b, .dpIndLongY b), (.andAbsY a, .absY a),
    (.andAbsX a, .absX a), (.andLongX l, .longX l)]

/-- ORA through memory, with the mode of each form (R219). -/
def oraForms (a : Word) (l : Addr) (b : Byte) : List (Instr × Mode) :=
  [(.oraDpXInd b, .dpXInd b), (.oraSr b, .sr b), (.oraDp b, .dp b), (.oraDpIndLong b, .dpIndLong b),
    (.oraAbs a, .abs a), (.oraLong l, .long l), (.oraDpIndY b, .dpIndY b), (.oraDpInd b, .dpInd b),
    (.oraSrIndY b, .srIndY b), (.oraDpX b, .dpX b), (.oraDpIndLongY b, .dpIndLongY b), (.oraAbsY a, .absY a),
    (.oraAbsX a, .absX a), (.oraLongX l, .longX l)]

/-- EOR through memory, with the mode of each form (R220). -/
def eorForms (a : Word) (l : Addr) (b : Byte) : List (Instr × Mode) :=
  [(.eorDpXInd b, .dpXInd b), (.eorSr b, .sr b), (.eorDp b, .dp b), (.eorDpIndLong b, .dpIndLong b),
    (.eorAbs a, .abs a), (.eorLong l, .long l), (.eorDpIndY b, .dpIndY b), (.eorDpInd b, .dpInd b),
    (.eorSrIndY b, .srIndY b), (.eorDpX b, .dpX b), (.eorDpIndLongY b, .dpIndLongY b), (.eorAbsY a, .absY a),
    (.eorAbsX a, .absX a), (.eorLongX l, .longX l)]

/-- CMP through memory, with the mode of each form (R221). -/
def cmpForms (a : Word) (l : Addr) (b : Byte) : List (Instr × Mode) :=
  [(.cmpDpXInd b, .dpXInd b), (.cmpSr b, .sr b), (.cmpDp b, .dp b), (.cmpDpIndLong b, .dpIndLong b),
    (.cmpAbs a, .abs a), (.cmpLong l, .long l), (.cmpDpIndY b, .dpIndY b), (.cmpDpInd b, .dpInd b),
    (.cmpSrIndY b, .srIndY b), (.cmpDpX b, .dpX b), (.cmpDpIndLongY b, .dpIndLongY b), (.cmpAbsY a, .absY a),
    (.cmpAbsX a, .absX a), (.cmpLongX l, .longX l)]

/-- CPX through memory, with the mode of each form (R222). -/
def cpxForms (a : Word) (b : Byte) : List (Instr × Mode) :=
  [(.cpxDp b, .dp b), (.cpxAbs a, .abs a)]

/-- CPY through memory, with the mode of each form (R223). -/
def cpyForms (a : Word) (b : Byte) : List (Instr × Mode) :=
  [(.cpyDp b, .dp b), (.cpyAbs a, .abs a)]

/-- BIT through memory, with the mode of each form (R224). -/
def bitForms (a : Word) (b : Byte) : List (Instr × Mode) :=
  [(.bitDp b, .dp b), (.bitAbs a, .abs a), (.bitDpX b, .dpX b), (.bitAbsX a, .absX a)]

/-- ASL through memory, with the mode of each form (R241). -/
def aslForms (a : Word) (b : Byte) : List (Instr × Mode) :=
  [(.aslDp b, .dp b), (.aslAbs a, .abs a), (.aslDpX b, .dpX b), (.aslAbsX a, .absX a)]

/-- LSR through memory, with the mode of each form (R242). -/
def lsrForms (a : Word) (b : Byte) : List (Instr × Mode) :=
  [(.lsrDp b, .dp b), (.lsrAbs a, .abs a), (.lsrDpX b, .dpX b), (.lsrAbsX a, .absX a)]

/-- ROL through memory, with the mode of each form (R243). -/
def rolForms (a : Word) (b : Byte) : List (Instr × Mode) :=
  [(.rolDp b, .dp b), (.rolAbs a, .abs a), (.rolDpX b, .dpX b), (.rolAbsX a, .absX a)]

/-- ROR through memory, with the mode of each form (R244). -/
def rorForms (a : Word) (b : Byte) : List (Instr × Mode) :=
  [(.rorDp b, .dp b), (.rorAbs a, .abs a), (.rorDpX b, .dpX b), (.rorAbsX a, .absX a)]

/-- INC through memory, with the mode of each form (R245). -/
def incForms (a : Word) (b : Byte) : List (Instr × Mode) :=
  [(.incDp b, .dp b), (.incAbs a, .abs a), (.incDpX b, .dpX b), (.incAbsX a, .absX a)]

/-- DEC through memory, with the mode of each form (R246). -/
def decForms (a : Word) (b : Byte) : List (Instr × Mode) :=
  [(.decDp b, .dp b), (.decAbs a, .abs a), (.decDpX b, .dpX b), (.decAbsX a, .absX a)]

/-- TSB through memory, with the mode of each form (R247). -/
def tsbForms (a : Word) (b : Byte) : List (Instr × Mode) :=
  [(.tsbDp b, .dp b), (.tsbAbs a, .abs a)]

/-- TRB through memory, with the mode of each form (R248). -/
def trbForms (a : Word) (b : Byte) : List (Instr × Mode) :=
  [(.trbDp b, .dp b), (.trbAbs a, .abs a)]

/-! ## Results -/

/-- `v` in A at width `wM`, with N and Z; A.h is kept where the width is 8 (10_state.md R21, R33). -/
def Regs.resultA (r : Regs) (v : Word) : Regs :=
  if r.p.m then { r with a := r.withLowA (lowByte v), p := r.p.nz8 (lowByte v) } else { r with a := v, p := r.p.nz16 v }

/-- `v` in X at width `wX`, with N and Z (10_state.md R22, R33). -/
def Regs.resultX (r : Regs) (v : Word) : Regs :=
  if r.p.x then { r with x := zeroExt (lowByte v), p := r.p.nz8 (lowByte v) } else { r with x := v, p := r.p.nz16 v }

/-- `v` in Y at width `wX`, with N and Z (10_state.md R22, R33). -/
def Regs.resultY (r : Regs) (v : Word) : Regs :=
  if r.p.x then { r with y := zeroExt (lowByte v), p := r.p.nz8 (lowByte v) } else { r with y := v, p := r.p.nz16 v }

/-- The 8-bit result of ADC or SBC in A, with C, V, N and Z (42_alu.md R211, R215). -/
def Regs.sum8 (r : Regs) (q : Sum 8) : Regs :=
  { r with a := r.withLowA q.result, p := { r.p with c := q.carry, v := q.overflow }.nz8 q.result }

/-- The 16-bit result of ADC or SBC in A, with C, V, N and Z (42_alu.md R211, R215). -/
def Regs.sum16 (r : Regs) (q : Sum 16) : Regs :=
  { r with a := q.result, p := { r.p with c := q.carry, v := q.overflow }.nz16 q.result }

/-- P after a compare of 8 bits (42_alu.md R221). -/
def Status.cmp8 (p : Status) (a v : Byte) : Status := { p with c := decide (v.toNat ≤ a.toNat) }.nz8 (a - v)

/-- P after a compare of 16 bits (42_alu.md R221). -/
def Status.cmp16 (p : Status) (a v : Word) : Status := { p with c := decide (v.toNat ≤ a.toNat) }.nz16 (a - v)

/-- `t` is `s` after `InterruptEntry(kind)`, the clock aside: the frame is stored, I set, D cleared, PBR cleared, PC read
from the vector of the mode (60_exceptions.md R390). -/
def Enters (kind : EntryKind) (s t : State) : Prop :=
  t.regs =
    { s.regs with
      s := s.frameS kind
      p := { s.regs.p with i := true, d := false }
      pbr := 0x00
      pc := t.word 0x00 false (vectorOffset s.regs.e kind) } ∧
  OnlyStores s t (s.frameCells kind)

/-- The reset line goes low for one step and is released; the next step runs the sequence (60_exceptions.md R380). -/
def Resets (s t : State) : Prop := ∃ h, step s.assertReset = .next h ∧ step h.releaseReset = .next t

/-- Every one of the `n` low digits is 0 to 9 (42_alu.md R213). -/
def bcdValid : Nat → Nat → Prop
  | 0, _ => True
  | n + 1, v => v % 16 ≤ 9 ∧ bcdValid n (v / 16)

/-- The number the `n` low digits stand for, the least significant first (42_alu.md R213). -/
def bcdValue : Nat → Nat → Nat
  | 0, _ => 0
  | n + 1, v => v % 16 + 10 * bcdValue n (v / 16)

/-- Digit `i` of a value, 0 the least significant. -/
def digit (v i : Nat) : Nat := v / 16 ^ i % 16

/-- The carry into digit `i` of `AddDecimal`: a digit's sum above 9 is adjusted by 6, one above 15 then carries (42_alu.md
R213). -/
def addCarry (a m c : Nat) : Nat → Nat
  | 0 => c
  | i + 1 =>
    let s := digit a i + digit m i + addCarry a m c i
    let s := if 9 < s then s + 6 else s
    if 15 < s then 1 else 0

/-- The sum of digit `i` in `AddDecimal`, before its adjustment (42_alu.md R213). -/
def addSum (a m c i : Nat) : Nat := digit a i + digit m i + addCarry a m c i

/-- The carry into digit `i` of `SubDecimal`, 0 where the digit below borrows (42_alu.md R217). -/
def subCarry (a m c : Nat) : Nat → Nat
  | 0 => c
  | i + 1 => if 15 < digit a i + (15 - digit m i) + subCarry a m c i then 1 else 0

/-- The sum of digit `i` in `SubDecimal`, before its adjustment (42_alu.md R217). -/
def subSum (a m c i : Nat) : Nat := digit a i + (15 - digit m i) + subCarry a m c i

/-- `r'` is the result V is computed from: `r`, but for its top digit where `DECIMAL_V` is `pre_high_adjust`, which is then
the sum `s` of that digit modulo 16 (42_alu.md R214). -/
def ForOverflow (n : Nat) (dv : DecimalV) (s : Nat) (r r' : BitVec (4 * n)) : Prop :=
  match dv with
  | .final => r' = r
  | .preHighAdjust => ∀ i, i < n → digit r'.toNat i = if i + 1 = n then s % 16 else digit r.toNat i

/-- The instructions that store to memory or push. -/
def storing (a : Word) (l : Addr) (b b' : Byte) : List Instr :=
  ((staForms a l b ++ stxForms a b ++ styForms a b ++ stzForms a b ++ aslForms a b ++ lsrForms a b ++ rolForms a b ++
    rorForms a b ++ incForms a b ++ decForms a b ++ tsbForms a b ++ trbForms a b).map Prod.fst) ++
    [.mvn b b', .mvp b b', .pha, .phx, .phy, .php, .phb, .phd, .phk, .pea a, .pei b, .per a, .jsrPcAbs a, .jsrPcIndX a,
      .jsl l, .brk b, .cop b]

/-! ## Cycles (70_reset_and_hazards.md R463) -/

/-- `m`. -/
def Status.mExtra (p : Status) : Nat := if p.m then 0 else 1

/-- `x`. -/
def Status.xExtra (p : Status) : Nat := if p.x then 0 else 1

/-- `w`. -/
def Regs.dlExtra (r : Regs) : Nat := if lowByte r.d = 0x00 then 0 else 1

/-- `e`. -/
def Regs.eExtra (r : Regs) : Nat := if r.e then 0 else 1

/-- `d`. -/
def State.decimalExtra (s : State) : Nat := if s.params.decimalPenalty = true ∧ s.regs.p.d = true then 1 else 0

/-- `p`: P.X = 0, or the index changes the high byte of the 16-bit base. -/
def Regs.indexExtra (r : Regs) (base index : Word) : Nat :=
  if r.p.x = false ∨ highByte (base + index) ≠ highByte base then 1 else 0

/-- `t + c`: taken, and in emulation mode to another page than that of the next instruction, where PC points. -/
def Regs.takenExtra (r : Regs) (cond : Bool) (disp : Byte) : Nat :=
  if cond then (if r.e = true ∧ highByte (r.pc + signExt disp) ≠ highByte r.pc then 2 else 1) else 0

/-- The entry of 70_reset_and_hazards.md R463 for an instruction, at the state after its fetch: a row of
opcode_table.json each. -/
def Instr.cycles (s : State) : Instr → Nat
  | .ldaDpXInd _ => 6 + s.regs.p.mExtra + s.regs.dlExtra
  | .ldaSr _ => 4 + s.regs.p.mExtra
  | .ldaDp _ => 3 + s.regs.p.mExtra + s.regs.dlExtra
  | .ldaDpIndLong _ => 6 + s.regs.p.mExtra + s.regs.dlExtra
  | .ldaImmM _ => 2 + s.regs.p.mExtra
  | .ldaAbs _ => 4 + s.regs.p.mExtra
  | .ldaLong _ => 5 + s.regs.p.mExtra
  | .ldaDpIndY dp => 5 + s.regs.p.mExtra + s.regs.dlExtra + s.regs.indexExtra (s.read16DpPtr (s.regs.dpAddr dp 0)).1 s.regs.y
  | .ldaDpInd _ => 5 + s.regs.p.mExtra + s.regs.dlExtra
  | .ldaSrIndY _ => 7 + s.regs.p.mExtra
  | .ldaDpX _ => 4 + s.regs.p.mExtra + s.regs.dlExtra
  | .ldaDpIndLongY _ => 6 + s.regs.p.mExtra + s.regs.dlExtra
  | .ldaAbsY a => 4 + s.regs.p.mExtra + s.regs.indexExtra a s.regs.y
  | .ldaAbsX a => 4 + s.regs.p.mExtra + s.regs.indexExtra a s.regs.x
  | .ldaLongX _ => 5 + s.regs.p.mExtra
  | .ldxImmX _ => 2 + s.regs.p.xExtra
  | .ldxDp _ => 3 + s.regs.p.xExtra + s.regs.dlExtra
  | .ldxAbs _ => 4 + s.regs.p.xExtra
  | .ldxDpY _ => 4 + s.regs.p.xExtra + s.regs.dlExtra
  | .ldxAbsY a => 4 + s.regs.p.xExtra + s.regs.indexExtra a s.regs.y
  | .ldyImmX _ => 2 + s.regs.p.xExtra
  | .ldyDp _ => 3 + s.regs.p.xExtra + s.regs.dlExtra
  | .ldyAbs _ => 4 + s.regs.p.xExtra
  | .ldyDpX _ => 4 + s.regs.p.xExtra + s.regs.dlExtra
  | .ldyAbsX a => 4 + s.regs.p.xExtra + s.regs.indexExtra a s.regs.x
  | .staDpXInd _ => 6 + s.regs.p.mExtra + s.regs.dlExtra
  | .staSr _ => 4 + s.regs.p.mExtra
  | .staDp _ => 3 + s.regs.p.mExtra + s.regs.dlExtra
  | .staDpIndLong _ => 6 + s.regs.p.mExtra + s.regs.dlExtra
  | .staAbs _ => 4 + s.regs.p.mExtra
  | .staLong _ => 5 + s.regs.p.mExtra
  | .staDpIndY _ => 6 + s.regs.p.mExtra + s.regs.dlExtra
  | .staDpInd _ => 5 + s.regs.p.mExtra + s.regs.dlExtra
  | .staSrIndY _ => 7 + s.regs.p.mExtra
  | .staDpX _ => 4 + s.regs.p.mExtra + s.regs.dlExtra
  | .staDpIndLongY _ => 6 + s.regs.p.mExtra + s.regs.dlExtra
  | .staAbsY _ | .staAbsX _ | .staLongX _ => 5 + s.regs.p.mExtra
  | .stxDp _ => 3 + s.regs.p.xExtra + s.regs.dlExtra
  | .stxAbs _ => 4 + s.regs.p.xExtra
  | .stxDpY _ => 4 + s.regs.p.xExtra + s.regs.dlExtra
  | .styDp _ => 3 + s.regs.p.xExtra + s.regs.dlExtra
  | .styAbs _ => 4 + s.regs.p.xExtra
  | .styDpX _ => 4 + s.regs.p.xExtra + s.regs.dlExtra
  | .stzDp _ => 3 + s.regs.p.mExtra + s.regs.dlExtra
  | .stzDpX _ => 4 + s.regs.p.mExtra + s.regs.dlExtra
  | .stzAbs _ => 4 + s.regs.p.mExtra
  | .stzAbsX _ => 5 + s.regs.p.mExtra
  | .adcDpXInd _ => 6 + s.regs.p.mExtra + s.regs.dlExtra + s.decimalExtra
  | .adcSr _ => 4 + s.regs.p.mExtra + s.decimalExtra
  | .adcDp _ => 3 + s.regs.p.mExtra + s.regs.dlExtra + s.decimalExtra
  | .adcDpIndLong _ => 6 + s.regs.p.mExtra + s.regs.dlExtra + s.decimalExtra
  | .adcImmM _ => 2 + s.regs.p.mExtra + s.decimalExtra
  | .adcAbs _ => 4 + s.regs.p.mExtra + s.decimalExtra
  | .adcLong _ => 5 + s.regs.p.mExtra + s.decimalExtra
  | .adcDpIndY dp => 5 + s.regs.p.mExtra + s.regs.dlExtra + s.regs.indexExtra (s.read16DpPtr (s.regs.dpAddr dp 0)).1 s.regs.y + s.decimalExtra
  | .adcDpInd _ => 5 + s.regs.p.mExtra + s.regs.dlExtra + s.decimalExtra
  | .adcSrIndY _ => 7 + s.regs.p.mExtra + s.decimalExtra
  | .adcDpX _ => 4 + s.regs.p.mExtra + s.regs.dlExtra + s.decimalExtra
  | .adcDpIndLongY _ => 6 + s.regs.p.mExtra + s.regs.dlExtra + s.decimalExtra
  | .adcAbsY a => 4 + s.regs.p.mExtra + s.regs.indexExtra a s.regs.y + s.decimalExtra
  | .adcAbsX a => 4 + s.regs.p.mExtra + s.regs.indexExtra a s.regs.x + s.decimalExtra
  | .adcLongX _ => 5 + s.regs.p.mExtra + s.decimalExtra
  | .sbcDpXInd _ => 6 + s.regs.p.mExtra + s.regs.dlExtra + s.decimalExtra
  | .sbcSr _ => 4 + s.regs.p.mExtra + s.decimalExtra
  | .sbcDp _ => 3 + s.regs.p.mExtra + s.regs.dlExtra + s.decimalExtra
  | .sbcDpIndLong _ => 6 + s.regs.p.mExtra + s.regs.dlExtra + s.decimalExtra
  | .sbcImmM _ => 2 + s.regs.p.mExtra + s.decimalExtra
  | .sbcAbs _ => 4 + s.regs.p.mExtra + s.decimalExtra
  | .sbcLong _ => 5 + s.regs.p.mExtra + s.decimalExtra
  | .sbcDpIndY dp => 5 + s.regs.p.mExtra + s.regs.dlExtra + s.regs.indexExtra (s.read16DpPtr (s.regs.dpAddr dp 0)).1 s.regs.y + s.decimalExtra
  | .sbcDpInd _ => 5 + s.regs.p.mExtra + s.regs.dlExtra + s.decimalExtra
  | .sbcSrIndY _ => 7 + s.regs.p.mExtra + s.decimalExtra
  | .sbcDpX _ => 4 + s.regs.p.mExtra + s.regs.dlExtra + s.decimalExtra
  | .sbcDpIndLongY _ => 6 + s.regs.p.mExtra + s.regs.dlExtra + s.decimalExtra
  | .sbcAbsY a => 4 + s.regs.p.mExtra + s.regs.indexExtra a s.regs.y + s.decimalExtra
  | .sbcAbsX a => 4 + s.regs.p.mExtra + s.regs.indexExtra a s.regs.x + s.decimalExtra
  | .sbcLongX _ => 5 + s.regs.p.mExtra + s.decimalExtra
  | .andDpXInd _ => 6 + s.regs.p.mExtra + s.regs.dlExtra
  | .andSr _ => 4 + s.regs.p.mExtra
  | .andDp _ => 3 + s.regs.p.mExtra + s.regs.dlExtra
  | .andDpIndLong _ => 6 + s.regs.p.mExtra + s.regs.dlExtra
  | .andImmM _ => 2 + s.regs.p.mExtra
  | .andAbs _ => 4 + s.regs.p.mExtra
  | .andLong _ => 5 + s.regs.p.mExtra
  | .andDpIndY dp => 5 + s.regs.p.mExtra + s.regs.dlExtra + s.regs.indexExtra (s.read16DpPtr (s.regs.dpAddr dp 0)).1 s.regs.y
  | .andDpInd _ => 5 + s.regs.p.mExtra + s.regs.dlExtra
  | .andSrIndY _ => 7 + s.regs.p.mExtra
  | .andDpX _ => 4 + s.regs.p.mExtra + s.regs.dlExtra
  | .andDpIndLongY _ => 6 + s.regs.p.mExtra + s.regs.dlExtra
  | .andAbsY a => 4 + s.regs.p.mExtra + s.regs.indexExtra a s.regs.y
  | .andAbsX a => 4 + s.regs.p.mExtra + s.regs.indexExtra a s.regs.x
  | .andLongX _ => 5 + s.regs.p.mExtra
  | .oraDpXInd _ => 6 + s.regs.p.mExtra + s.regs.dlExtra
  | .oraSr _ => 4 + s.regs.p.mExtra
  | .oraDp _ => 3 + s.regs.p.mExtra + s.regs.dlExtra
  | .oraDpIndLong _ => 6 + s.regs.p.mExtra + s.regs.dlExtra
  | .oraImmM _ => 2 + s.regs.p.mExtra
  | .oraAbs _ => 4 + s.regs.p.mExtra
  | .oraLong _ => 5 + s.regs.p.mExtra
  | .oraDpIndY dp => 5 + s.regs.p.mExtra + s.regs.dlExtra + s.regs.indexExtra (s.read16DpPtr (s.regs.dpAddr dp 0)).1 s.regs.y
  | .oraDpInd _ => 5 + s.regs.p.mExtra + s.regs.dlExtra
  | .oraSrIndY _ => 7 + s.regs.p.mExtra
  | .oraDpX _ => 4 + s.regs.p.mExtra + s.regs.dlExtra
  | .oraDpIndLongY _ => 6 + s.regs.p.mExtra + s.regs.dlExtra
  | .oraAbsY a => 4 + s.regs.p.mExtra + s.regs.indexExtra a s.regs.y
  | .oraAbsX a => 4 + s.regs.p.mExtra + s.regs.indexExtra a s.regs.x
  | .oraLongX _ => 5 + s.regs.p.mExtra
  | .eorDpXInd _ => 6 + s.regs.p.mExtra + s.regs.dlExtra
  | .eorSr _ => 4 + s.regs.p.mExtra
  | .eorDp _ => 3 + s.regs.p.mExtra + s.regs.dlExtra
  | .eorDpIndLong _ => 6 + s.regs.p.mExtra + s.regs.dlExtra
  | .eorImmM _ => 2 + s.regs.p.mExtra
  | .eorAbs _ => 4 + s.regs.p.mExtra
  | .eorLong _ => 5 + s.regs.p.mExtra
  | .eorDpIndY dp => 5 + s.regs.p.mExtra + s.regs.dlExtra + s.regs.indexExtra (s.read16DpPtr (s.regs.dpAddr dp 0)).1 s.regs.y
  | .eorDpInd _ => 5 + s.regs.p.mExtra + s.regs.dlExtra
  | .eorSrIndY _ => 7 + s.regs.p.mExtra
  | .eorDpX _ => 4 + s.regs.p.mExtra + s.regs.dlExtra
  | .eorDpIndLongY _ => 6 + s.regs.p.mExtra + s.regs.dlExtra
  | .eorAbsY a => 4 + s.regs.p.mExtra + s.regs.indexExtra a s.regs.y
  | .eorAbsX a => 4 + s.regs.p.mExtra + s.regs.indexExtra a s.regs.x
  | .eorLongX _ => 5 + s.regs.p.mExtra
  | .cmpDpXInd _ => 6 + s.regs.p.mExtra + s.regs.dlExtra
  | .cmpSr _ => 4 + s.regs.p.mExtra
  | .cmpDp _ => 3 + s.regs.p.mExtra + s.regs.dlExtra
  | .cmpDpIndLong _ => 6 + s.regs.p.mExtra + s.regs.dlExtra
  | .cmpImmM _ => 2 + s.regs.p.mExtra
  | .cmpAbs _ => 4 + s.regs.p.mExtra
  | .cmpLong _ => 5 + s.regs.p.mExtra
  | .cmpDpIndY dp => 5 + s.regs.p.mExtra + s.regs.dlExtra + s.regs.indexExtra (s.read16DpPtr (s.regs.dpAddr dp 0)).1 s.regs.y
  | .cmpDpInd _ => 5 + s.regs.p.mExtra + s.regs.dlExtra
  | .cmpSrIndY _ => 7 + s.regs.p.mExtra
  | .cmpDpX _ => 4 + s.regs.p.mExtra + s.regs.dlExtra
  | .cmpDpIndLongY _ => 6 + s.regs.p.mExtra + s.regs.dlExtra
  | .cmpAbsY a => 4 + s.regs.p.mExtra + s.regs.indexExtra a s.regs.y
  | .cmpAbsX a => 4 + s.regs.p.mExtra + s.regs.indexExtra a s.regs.x
  | .cmpLongX _ => 5 + s.regs.p.mExtra
  | .cpxImmX _ => 2 + s.regs.p.xExtra
  | .cpxDp _ => 3 + s.regs.p.xExtra + s.regs.dlExtra
  | .cpxAbs _ => 4 + s.regs.p.xExtra
  | .cpyImmX _ => 2 + s.regs.p.xExtra
  | .cpyDp _ => 3 + s.regs.p.xExtra + s.regs.dlExtra
  | .cpyAbs _ => 4 + s.regs.p.xExtra
  | .bitDp _ => 3 + s.regs.p.mExtra + s.regs.dlExtra
  | .bitAbs _ => 4 + s.regs.p.mExtra
  | .bitDpX _ => 4 + s.regs.p.mExtra + s.regs.dlExtra
  | .bitAbsX a => 4 + s.regs.p.mExtra + s.regs.indexExtra a s.regs.x
  | .bitImmM _ => 2 + s.regs.p.mExtra
  | .aslDp _ => 5 + 2 * s.regs.p.mExtra + s.regs.dlExtra
  | .aslAcc => 2
  | .aslAbs _ => 6 + 2 * s.regs.p.mExtra
  | .aslDpX _ => 6 + 2 * s.regs.p.mExtra + s.regs.dlExtra
  | .aslAbsX _ => 7 + 2 * s.regs.p.mExtra
  | .lsrDp _ => 5 + 2 * s.regs.p.mExtra + s.regs.dlExtra
  | .lsrAcc => 2
  | .lsrAbs _ => 6 + 2 * s.regs.p.mExtra
  | .lsrDpX _ => 6 + 2 * s.regs.p.mExtra + s.regs.dlExtra
  | .lsrAbsX _ => 7 + 2 * s.regs.p.mExtra
  | .rolDp _ => 5 + 2 * s.regs.p.mExtra + s.regs.dlExtra
  | .rolAcc => 2
  | .rolAbs _ => 6 + 2 * s.regs.p.mExtra
  | .rolDpX _ => 6 + 2 * s.regs.p.mExtra + s.regs.dlExtra
  | .rolAbsX _ => 7 + 2 * s.regs.p.mExtra
  | .rorDp _ => 5 + 2 * s.regs.p.mExtra + s.regs.dlExtra
  | .rorAcc => 2
  | .rorAbs _ => 6 + 2 * s.regs.p.mExtra
  | .rorDpX _ => 6 + 2 * s.regs.p.mExtra + s.regs.dlExtra
  | .rorAbsX _ => 7 + 2 * s.regs.p.mExtra
  | .incAcc => 2
  | .incDp _ => 5 + 2 * s.regs.p.mExtra + s.regs.dlExtra
  | .incAbs _ => 6 + 2 * s.regs.p.mExtra
  | .incDpX _ => 6 + 2 * s.regs.p.mExtra + s.regs.dlExtra
  | .incAbsX _ => 7 + 2 * s.regs.p.mExtra
  | .decAcc => 2
  | .decDp _ => 5 + 2 * s.regs.p.mExtra + s.regs.dlExtra
  | .decAbs _ => 6 + 2 * s.regs.p.mExtra
  | .decDpX _ => 6 + 2 * s.regs.p.mExtra + s.regs.dlExtra
  | .decAbsX _ => 7 + 2 * s.regs.p.mExtra
  | .tsbDp _ => 5 + 2 * s.regs.p.mExtra + s.regs.dlExtra
  | .tsbAbs _ => 6 + 2 * s.regs.p.mExtra
  | .trbDp _ => 5 + 2 * s.regs.p.mExtra + s.regs.dlExtra
  | .trbAbs _ => 6 + 2 * s.regs.p.mExtra
  | .inx | .iny | .dex | .dey => 2
  | .bcc disp => 2 + s.regs.takenExtra (!s.regs.p.c) disp
  | .bcs disp => 2 + s.regs.takenExtra s.regs.p.c disp
  | .beq disp => 2 + s.regs.takenExtra s.regs.p.z disp
  | .bne disp => 2 + s.regs.takenExtra (!s.regs.p.z) disp
  | .bmi disp => 2 + s.regs.takenExtra s.regs.p.n disp
  | .bpl disp => 2 + s.regs.takenExtra (!s.regs.p.n) disp
  | .bvc disp => 2 + s.regs.takenExtra (!s.regs.p.v) disp
  | .bvs disp => 2 + s.regs.takenExtra s.regs.p.v disp
  | .bra disp => 2 + s.regs.takenExtra true disp
  | .brl _ => 4
  | .jmpPcAbs _ => 3
  | .jmpPcInd _ => 5
  | .jmpPcIndX _ => 6
  | .jmlPcLong _ => 4
  | .jmlPcIndLong _ | .jsrPcAbs _ => 6
  | .jsrPcIndX _ | .jsl _ => 8
  | .rts | .rtl => 6
  | .mvn _ _ | .mvp _ _ => 7
  | .brk _ | .cop _ => 7 + s.regs.eExtra
  | .rti => 6 + s.regs.eExtra
  | .wai | .stp => 3
  | .pea _ => 5
  | .pei _ => 6 + s.regs.dlExtra
  | .per _ => 6
  | .pha => 3 + s.regs.p.mExtra
  | .pla => 4 + s.regs.p.mExtra
  | .phx => 3 + s.regs.p.xExtra
  | .plx => 4 + s.regs.p.xExtra
  | .phy => 3 + s.regs.p.xExtra
  | .ply => 4 + s.regs.p.xExtra
  | .php => 3
  | .plp => 4
  | .phb => 3
  | .plb | .phd => 4
  | .pld => 5
  | .phk | .rep _ | .sep _ => 3
  | .wdm _ | .clc | .sec | .cli | .sei | .cld | .sed | .clv | .nop | .xce | .tax | .tay | .txa | .tya | .tsx
  | .txs | .txy | .tyx | .tcd | .tdc | .tcs | .tsc => 2
  | .xba => 3

end Sys2Proof.Machine
end

