-- ==== Sys2Proof/Certificates/Slice0/Obligations.lean ====
section
/-! DEFINITION. The statements about the machine. `OffIo` premises ask of the addresses an instruction reads and writes, and
of no other, that they do not resolve to the I/O gate: there a read has no effect and what an access gives is the memory's;
what an access to the I/O gate does is `BusReads`, `BusWrites` and `IoAccessEffects`. -/

section Claims

open Sys2Proof Sys2Proof.Machine

/-! ## Encoding -/

/-- Decoding an encoded well-formed instruction gives it back, with the bytes that follow (30_encoding.md R110 to R116). -/
def Obligations.DecodeEncode : Prop :=
  ∀ (m x : Bool) (i : Instr) (rest : List Byte), i.wellFormed m x = true →
    decode m x (encode m x i ++ rest) = .ok (i, rest)

/-- Bytes that decode are the encoding of the instruction they decode to, and it is well-formed; no opcode is illegal: an
opcode and three more bytes always decode, and at most those bytes are used up (30_encoding.md R110, R118). -/
def Obligations.EncodeDecode : Prop :=
  (∀ (m x : Bool) (bytes rest : List Byte) (i : Instr), decode m x bytes = .ok (i, rest) →
    i.wellFormed m x = true ∧ encode m x i ++ rest = bytes) ∧
  ∀ (m x : Bool) (op b1 b2 b3 : Byte) (rest : List Byte), ∃ i left,
    decode m x (op :: b1 :: b2 :: b3 :: rest) = .ok (i, left ++ rest)

/-- Words written out from the spec's encodings, one or more of every family, decode to the instructions they stand for
(30_encoding.md R111, R112, R115, R116, R125). -/
def Obligations.DecodeWords : Prop :=
  decode false true [0xA9, 0x34, 0x12] = .ok (.ldaImmM 0x1234, []) ∧
  decode true true [0xA9, 0x34, 0x12] = .ok (.ldaImmM 0x0034, [0x12]) ∧
  decode true false [0xA2, 0x00, 0x80] = .ok (.ldxImmX 0x8000, []) ∧
  decode true true [0x18, 0x69, 0xFF] = .ok (.clc, [0x69, 0xFF]) ∧
  decode true true [0x69, 0xFF] = .ok (.adcImmM 0x00FF, []) ∧
  decode true true [0x20, 0x34, 0x12, 0x00] = .ok (.jsrPcAbs 0x1234, [0x00]) ∧
  decode true true [0x22, 0x78, 0x56, 0x34] = .ok (.jsl 0x345678, []) ∧
  decode true true [0x54, 0x02, 0x01] = .ok (.mvn 0x02 0x01, []) ∧
  decode true true [0x10, 0x80] = .ok (.bpl 0x80, []) ∧
  decode true true [0x62, 0x10, 0x00] = .ok (.per 0x0010, []) ∧
  decode true true [0xC2, 0x30] = .ok (.rep 0x30, []) ∧
  decode true true [0x9E, 0x00, 0x20] = .ok (.stzAbsX 0x2000, []) ∧
  decode true true [0x02, 0x05] = .ok (.cop 0x05, []) ∧
  decode true true [0xB7, 0x10] = .ok (.ldaDpIndLongY 0x10, []) ∧
  decode true true [0x0E, 0x00, 0x20] = .ok (.aslAbs 0x2000, []) ∧
  decode true true [0x14, 0x10] = .ok (.trbDp 0x10, []) ∧
  decode true true [0xE8, 0x88] = .ok (.inx, [0x88]) ∧
  decode true true [0xAA] = .ok (.tax, []) ∧
  decode true true [0xEB, 0x48] = .ok (.xba, [0x48])

/-! ## The step -/

/-- A step that fetches, its bytes not on an I/O page, runs the instruction they decode to: `exec` at the state after the
fetch, which has moved PC past the instruction inside its bank, charged one cycle a byte and left the last-fetch record; then
the trace record is left (30_encoding.md R113, R114, 10_state.md R46, 60_exceptions.md R380 case 7). -/
def Obligations.StepRunsDecoded : Prop :=
  ∀ (s : State) (i : Instr) (rest : List Byte), s.Fetching →
    decode s.regs.p.m s.regs.p.x (s.peekBytes s.regs.pbr s.regs.pc 4) = .ok (i, rest) →
    s.OffIo .read (bytesAddrs s.regs.pbr s.regs.pc (4 - rest.length)) →
    ∃ c t, c.cyclesSpent = s.clock.cyclesSpent + (4 - rest.length) ∧
      exec i (s.awake.afterFetch (4 - rest.length) c) = .next t ∧
      step s = .next
        { t with
          trace := some
            { opcode := s.peek (joinAddr s.regs.pbr s.regs.pc)
              bank := s.regs.pbr
              pc := s.regs.pc
              operands := s.peekBytes s.regs.pbr (s.regs.pc + 1) (3 - rest.length)
              cycles := t.clock.cyclesSpent - s.clock.cyclesSpent } }

/-- The step is total: no state and no instruction stops the machine (60_exceptions.md R380, R381). -/
def Obligations.StepTotal : Prop :=
  (∀ s : State, ∃ t, step s = .next t) ∧ ∀ (i : Instr) (s : State), ∃ t, exec i s = .next t

/-- Reset first, then NMI, then IRQ: with several requests at once a step honours one, in that order; the NMI's entry
clears the latch, every entry sets P.I, so that an IRQ that still stands waits; an IRQ is not taken while P.I is set. -/
def Obligations.RequestPriority : Prop :=
  (∀ s : State, s.pins.resbIn = false → ∃ t, step s = .next t ∧ t.regs = s.regs.resetForce ∧ t.bus = s.bus) ∧
  (∀ s : State, s.EntryOffIo .nmi → s.Running → s.pins.nmiPending = true →
    ∃ t, step s = .next t ∧
      Enters .nmi { s with pins := { s.pins with readyOut := true, nmiPending := false, coarse := .execute } } t ∧
      t.clock.cyclesSpent = s.clock.cyclesSpent + 7 + s.regs.eExtra) ∧
  (∀ s : State, s.EntryOffIo .irq → s.Running → s.pins.nmiPending = false → s.pins.irqbIn = false → s.regs.p.i = false →
    ∃ t, step s = .next t ∧ Enters .irq { s with pins := { s.pins with readyOut := true, coarse := .execute } } t ∧
      t.clock.cyclesSpent = s.clock.cyclesSpent + 7 + s.regs.eExtra) ∧
  (∀ s : State, s.Running → s.pins.nmiPending = false → (s.pins.irqbIn = true ∨ s.regs.p.i = true) →
    step s = s.awake.runInstr)

/-- WAI lowers `ready_out`. While it is low a step does nothing unless the wake condition holds; where it holds,
`ready_out` goes high and the same step goes on as a step of the running core; reset ends the wait. -/
def Obligations.Waiting : Prop :=
  (∀ s : State, ∃ c, exec .wai s = .next { s with pins := { s.pins with readyOut := false }, clock := c }) ∧
  (∀ s : State, s.pins.resbIn = true → s.pins.coarse ≠ .reset → s.pins.enabled = true → s.pins.readyOut = false →
    if s.pins.nmiPending = true ∨
        (s.pins.irqbIn = false ∧ (s.regs.p.i = false ∨ s.params.waiWakeOnMaskedIrq = true)) then
      step s = step { s with pins := { s.pins with readyOut := true } }
    else ∃ c, step s = .next { s with clock := c }) ∧
  (∀ s : State, s.pins.resbIn = false → ∃ t, step s = .next t ∧ t.pins.readyOut = true)

/-- STP lowers `enabled`. While it is low every step does nothing, whatever requests stand (a pulse still sets the latch),
until reset revives the core and drops the latch. -/
def Obligations.Stopped : Prop :=
  (∀ s : State, ∃ c, exec .stp s = .next { s with pins := { s.pins with enabled := false }, clock := c }) ∧
  (∀ s : State, s.pins.resbIn = true → s.pins.coarse ≠ .reset → s.pins.enabled = false →
    ∃ c, step s = .next { s with clock := c }) ∧
  (∀ s : State, (s.setNmi true).pins.nmiPending = true ∧ (s.setNmi true).pins.enabled = s.pins.enabled) ∧
  (∀ s : State, s.pins.resbIn = false → ∃ t, step s = .next t ∧ t.pins.enabled = true ∧ t.pins.nmiPending = false)

/-! ## Reset -/

/-- The values `ResetForce()` imposes, all else it leaves, that it is idempotent, and that a step with the reset line low
imposes them without an access. -/
def Obligations.ResetForceValues : Prop :=
  ∀ s : State,
    s.resetForce =
      { s with
        regs :=
          { a := s.regs.a, x := zeroExt (lowByte s.regs.x), y := zeroExt (lowByte s.regs.y),
            s := joinWord 0x01 (lowByte s.regs.s), d := 0x0000, pbr := 0x00, dbr := 0x00, pc := s.regs.pc,
            p :=
              { c := s.regs.p.c, z := s.regs.p.z, i := true, d := false, x := true, m := true, v := s.regs.p.v,
                n := s.regs.p.n },
            e := true }
        pins := { s.pins with readyOut := true, enabled := true, nmiPending := false } } ∧
    s.resetForce.resetForce = s.resetForce ∧
    (s.pins.resbIn = false → ∃ t, step s = .next t ∧ t.regs = s.resetForce.regs ∧ t.bus = s.bus ∧
      t.pins.readyOut = true ∧ t.pins.enabled = true ∧ t.pins.nmiPending = false)

/-- The first step after the reset line has gone high runs the sequence: the forced values, nine cycles, PC from
`00:FFFC`, `state` Execute, no instruction fetched. -/
def Obligations.ResetSequenceRuns : Prop :=
  ∀ s : State, s.OffIo .read (wordAddrs 0x00 false 0xFFFC) → s.pins.resbIn = true → s.pins.coarse = .reset →
    ∃ c, c.cyclesSpent = s.clock.cyclesSpent + 9 ∧
      step s = .next
        { s.resetForce with
          regs := { s.regs.resetForce with
            pc := joinWord (s.peek (joinAddr 0x00 0xFFFD)) (s.peek (joinAddr 0x00 0xFFFC)) }
          pins := { s.resetForce.pins with coarse := .execute }
          clock := c }

/-- Scenario 6: the line held low for three calls, then released; on the fourth call PC is the reset vector, and E, M, X and I
are 1. Two resets leave what one leaves, the clock aside; reset leaves A, X.l, Y.l, S.l, C, Z, V, N, the memory and the map
alone, and the clock counts on (70_reset_and_hazards.md R434, R435, 10_state.md R49): by ten, nine for the sequence (R433) and
one for the held step, which is the model's choice (R467, log 19). -/
def Obligations.ResetProperties : Prop :=
  (∀ s : State, s.OffIo .read (wordAddrs 0x00 false 0xFFFC) → s.pins.resbIn = false → s.pins.resetHold = none →
    ∃ s1 s2 s3 t, step s = .next s1 ∧ step s1 = .next s2 ∧ step s2 = .next s3 ∧ step s3.releaseReset = .next t ∧
      t.regs.pc = joinWord (s.peek (joinAddr 0x00 0xFFFD)) (s.peek (joinAddr 0x00 0xFFFC)) ∧
      t.regs.e = true ∧ t.regs.p.m = true ∧ t.regs.p.x = true ∧ t.regs.p.i = true) ∧
  ∀ s : State, s.OffIo .read (wordAddrs 0x00 false 0xFFFC) →
    (∃ t, Resets s t) ∧
    ∀ t, Resets s t →
      t.regs.a = s.regs.a ∧ lowByte t.regs.x = lowByte s.regs.x ∧ lowByte t.regs.y = lowByte s.regs.y ∧
      lowByte t.regs.s = lowByte s.regs.s ∧ t.regs.p.c = s.regs.p.c ∧ t.regs.p.z = s.regs.p.z ∧
      t.regs.p.v = s.regs.p.v ∧ t.regs.p.n = s.regs.p.n ∧ t.bus = s.bus ∧ t.params = s.params ∧
      t.clock.cyclesSpent = s.clock.cyclesSpent + 10 ∧
      ∀ u, Resets t u → u = { t with clock := u.clock }

/-- What the state after reset holds, as far as the spec gives it (10_state.md R49). -/
def Obligations.ResetValues : Prop :=
  State.reset.regs.e = true ∧ State.reset.regs.p.m = true ∧ State.reset.regs.p.x = true ∧
  State.reset.regs.p.i = true ∧ State.reset.regs.p.d = false ∧ State.reset.regs.d = 0x0000 ∧
  State.reset.regs.pbr = 0x00 ∧ State.reset.regs.dbr = 0x00 ∧ highByte State.reset.regs.s = 0x01 ∧
  highByte State.reset.regs.x = 0x00 ∧ highByte State.reset.regs.y = 0x00 ∧
  State.reset.regs.pc = State.reset.word 0x00 false 0xFFFC ∧ State.reset.pins.coarse = .execute ∧
  State.reset.pins.readyOut = true ∧ State.reset.pins.enabled = true ∧ State.reset.pins.nmiPending = false

/-! ## What every step keeps -/

/-- I-EMU, I-IDX, the two values of the coarse state between steps, the order of the steps of the clock, and the canonical
form of the memory and of the maps (the last is the model's own) are kept by every step (10_state.md R36, R44,
70_reset_and_hazards.md R460). -/
def Obligations.StepKeepsInv : Prop := ∀ s t : State, s.Inv → step s = .next t → t.Inv

/-- The invariant holds after reset (10_state.md R36, R49). -/
def Obligations.ResetInv : Prop := State.reset.Inv

/-- No step changes the ROM image, the parameters or the step sizes of the clock; every step counts at least one cycle, and a
step held in reset, stopped or waiting exactly one, which is the model's choice (20_memory.md R79, 00_scope.md R5,
70_reset_and_hazards.md R460, R467, log 19). -/
def Obligations.StepKeepsRom : Prop :=
  ∀ s t : State, step s = .next t →
    t.bus.mem.rom = s.bus.mem.rom ∧ t.params = s.params ∧ t.clock.fastStep = s.clock.fastStep ∧
    t.clock.slowStep = s.clock.slowStep ∧ s.clock.cyclesSpent < t.clock.cyclesSpent ∧
    (s.pins.resbIn = false ∨
        (s.pins.coarse ≠ .reset ∧ (s.pins.enabled = false ∨ (s.pins.readyOut = false ∧ s.wakes = false))) →
      t.clock.cyclesSpent = s.clock.cyclesSpent + 1)

/-- The increase of the count over a step that fetches equals the entry of the cycle table for the instruction, and the
trace record's number is that increase. -/
def Obligations.CycleAccuracy : Prop :=
  ∀ s t : State, s.Fetching → step s = .next t →
    let f := s.awake.fetchInstr
    let n := Instr.cycles f.state (f.instr s.regs.p.m s.regs.p.x)
    t.clock.cyclesSpent = s.clock.cyclesSpent + n ∧ t.trace.map (·.cycles) = some n

/-- Who writes what: E only XCE; PBR only JML, JSL, RTL, RTI, BRK and COP; DBR only PLB, MVN and MVP; D only TCD and PLD; the
line `ready_out` only WAI; `enabled` only STP (10_state.md R24, R25, R26, R35, R42, R43). -/
def Obligations.RegisterWriters : Prop :=
  ∀ (i : Instr) (s t : State), exec i s = .next t →
    (t.regs.e ≠ s.regs.e → i = .xce) ∧
    (t.regs.pbr ≠ s.regs.pbr → (∃ l, i = .jmlPcLong l ∨ i = .jsl l) ∨ (∃ a, i = .jmlPcIndLong a) ∨ i = .rtl ∨
      i = .rti ∨ ∃ b, i = .brk b ∨ i = .cop b) ∧
    (t.regs.dbr ≠ s.regs.dbr → i = .plb ∨ ∃ b b', i = .mvn b b' ∨ i = .mvp b b') ∧
    (t.regs.d ≠ s.regs.d → i = .tcd ∨ i = .pld) ∧
    (t.pins.readyOut ≠ s.pins.readyOut → i = .wai) ∧
    (t.pins.enabled ≠ s.pins.enabled → i = .stp)

/-- Who writes the flags: I only SEI, CLI, REP, SEP, PLP, RTI, BRK and COP; D only SED, CLD and those; M and X only REP, SEP,
PLP, RTI and XCE; V only ADC, SBC, BIT, CLV, REP, SEP, PLP and RTI (10_state.md R31). -/
def Obligations.FlagWriters : Prop :=
  ∀ (i : Instr) (s t : State), exec i s = .next t →
    let whole := (∃ b, i = .rep b ∨ i = .sep b) ∨ i = .plp ∨ i = .rti
    let entry := ∃ b, i = .brk b ∨ i = .cop b
    (t.regs.p.i ≠ s.regs.p.i → i = .sei ∨ i = .cli ∨ whole ∨ entry) ∧
    (t.regs.p.d ≠ s.regs.p.d → i = .sed ∨ i = .cld ∨ whole ∨ entry) ∧
    (t.regs.p.m ≠ s.regs.p.m → whole ∨ i = .xce) ∧
    (t.regs.p.x ≠ s.regs.p.x → whole ∨ i = .xce) ∧
    (t.regs.p.v ≠ s.regs.p.v → whole ∨ i = .clv ∨
      ∃ a l b v, i ∈ [Instr.adcImmM v, .sbcImmM v] ++ (adcForms a l b ++ sbcForms a l b ++ bitForms a b).map Prod.fst)

/-- Only the storing instructions change the memory (20_memory.md R75, 41_load_store.md R190, 42_alu.md R210). -/
def Obligations.MemoryWriters : Prop :=
  ∀ (i : Instr) (s t : State), exec i s = .next t → t.bus.mem ≠ s.bus.mem → ∃ a l b b', i ∈ storing a l b b'

/-! ## The bus -/

/-- `MemRead`: one cycle, slow where the target is; the collaborator's byte, 0x00, or the stored byte; the memory is as it
was (20_memory.md R75; how the collaborator is consulted is the model's, log 9). -/
def Obligations.BusReads : Prop :=
  ∀ (s : State) (a : Addr) (k : AccessKind),
    (s.busRead a k).2.bus.mem = s.bus.mem ∧
    (s.busRead a k).2.clock.cyclesSpent = s.clock.cyclesSpent + 1 ∧
    (match s.resolve .read a with
      | .io =>
        (s.busRead a k).1 = Config.mmioRead s.bus.ioCount (bankOf a) (offsetOf a) k ∧
          ∃ c, c.ts = s.clock.ts + s.clock.slowStep ∧
            (s.busRead a k).2 =
              if k = .noOp then { s with clock := c }
              else State.applyIo (.read (bankOf a) (offsetOf a) k) { s with clock := c }
      | .empty =>
        (s.busRead a k).1 = 0x00 ∧
          (s.busRead a k).2 = { s with clock := (s.busRead a k).2.clock } ∧
          (s.busRead a k).2.clock.ts = s.clock.ts + (if s.clock.speedGate then s.clock.slowStep else s.clock.fastStep)
      | .mem pg _ _ =>
        (s.busRead a k).1 = s.bus.mem.byte { store := pg.store, offset := joinWord pg.page (lowByte (offsetOf a)) } ∧
          (s.busRead a k).2 = { s with clock := (s.busRead a k).2.clock } ∧
          (s.busRead a k).2.clock.ts = s.clock.ts +
            (if s.clock.speedGate = true ∨ pg.store = .slow .e0 ∨ pg.store = .slow .e1 then s.clock.slowStep
              else s.clock.fastStep))

/-- `MemWrite`: one cycle, slow where the target or its shadow page is; the I/O gate, Empty and read-only pages drop the byte
and leave the memory; any other page stores it, and its shadow page as well where it has one, the ROM image never; nothing else
changes (20_memory.md R76, R84; a shadow page's delivery and its charge, a page of ROM's shadow, and the collaborator, are the
model's, logs 11, 22 and 9). -/
def Obligations.BusWrites : Prop :=
  ∀ (s : State) (a : Addr) (k : AccessKind) (v : Byte),
    let slow := fun (pg : Page) => decide (pg.store = .slow .e0 ∨ pg.store = .slow .e1)
    let charged := fun (isSlow : Bool) =>
      { s.clock with
        ts := s.clock.ts + (if s.clock.speedGate = true ∨ isSlow = true then s.clock.slowStep else s.clock.fastStep)
        cyclesSpent := s.clock.cyclesSpent + 1 }
    let put := fun (m : Memory) (pg : Page) =>
      match pg.store with
      | .rom _ => m
      | st => m.put { store := st, offset := joinWord pg.page (lowByte (offsetOf a)) } v
    match s.resolve .write a with
    | .io =>
      s.busWrite a k v = State.applyIo (.write (bankOf a) (offsetOf a) v) { s with clock := charged true } ∧
        (s.busWrite a k v).bus.mem = s.bus.mem
    | .empty => s.busWrite a k v = { s with clock := charged false }
    | .mem pg true none => s.busWrite a k v = { s with clock := charged (slow pg) }
    | .mem pg true (some sh) => s.busWrite a k v = { s with clock := charged (slow pg || slow sh) }
    | .mem pg false none =>
      s.busWrite a k v = { s with clock := charged (slow pg), bus := { s.bus with mem := put s.bus.mem pg } }
    | .mem pg false (some sh) =>
      s.busWrite a k v =
        { s with clock := charged (slow pg || slow sh), bus := { s.bus with mem := put (put s.bus.mem pg) sh } }

/-- What an access to an I/O page can change beside the value it moves is the collaborator's answer: the two requests, the
speed gate and the map, never the registers, the memory, reset, WAI's wait or STP's stop (20_memory.md R85, R86,
60_exceptions.md R388; the form of the answer is the model's, log 9). -/
def Obligations.IoAccessEffects : Prop :=
  ∀ (s : State) (x : IoAccess),
    (s.applyIo x).regs = s.regs ∧ (s.applyIo x).bus.mem = s.bus.mem ∧ (s.applyIo x).bus.ioCount = s.bus.ioCount + 1 ∧
    (s.applyIo x).pins.irqbIn = (Config.mmioEffect s.bus.ioCount x).irqbIn.getD s.pins.irqbIn ∧
    (s.applyIo x).pins.nmiPending = (s.pins.nmiPending || (Config.mmioEffect s.bus.ioCount x).nmiPulse) ∧
    (s.applyIo x).clock.speedGate = (Config.mmioEffect s.bus.ioCount x).speedGate.getD s.clock.speedGate ∧
    (s.applyIo x).pins.resbIn = s.pins.resbIn ∧ (s.applyIo x).pins.readyOut = s.pins.readyOut ∧
    (s.applyIo x).pins.enabled = s.pins.enabled ∧ (s.applyIo x).pins.coarse = s.pins.coarse ∧
    (s.applyIo x).params = s.params

/-- On the flat platform a byte written is read back at its address and at no other, and it is seen by the fetch that
follows; the bytes an instruction stores are what their addresses then read, the last one stored where two fall on one
address, and every other address reads as before (20_memory.md R83, R90, R93). -/
def Obligations.FlatMemory : Prop :=
  (∀ (s : State) (a : Addr) (k : AccessKind) (v : Byte), s.Flat → s.bus.mem.wf = true →
    (s.busWrite a k v).Flat ∧ (s.busWrite a k v).bus.mem.wf = true ∧
    ∀ b k', ((s.busWrite a k v).busRead b k').1 = if b = a then v else s.peek b) ∧
  ∀ (s t : State) (cells : List (Addr × Byte)), s.Flat → s.bus.mem.wf = true → OnlyStores s t cells →
    ∀ a, t.peek a = ((cells.reverse.find? fun c => c.1 == a).map Prod.snd).getD (s.peek a)

/-! ## Flags and widths -/

/-- `SetNZ` at a width: Z is set for zero alone, N is the top bit, no other bit of P moves. -/
def Obligations.NzLaw : Prop :=
  ∀ (w : Nat) (p : Status) (v : BitVec w),
    p.setNZ v = { p with z := decide (v.toNat = 0), n := v.getLsbD (w - 1) }

/-- `Normalize()`: E forces M, X and the high byte of S; X forces the high bytes of X and Y; nothing else. -/
def Obligations.NormalizeLaw : Prop :=
  ∀ r : Regs,
    r.normalize =
      { r with
        p := { r.p with m := r.p.m || r.e, x := r.p.x || r.e }
        s := if r.e = true then joinWord 0x01 (lowByte r.s) else r.s
        x := if r.p.x = true ∨ r.e = true then joinWord 0x00 (lowByte r.x) else r.x
        y := if r.p.x = true ∨ r.e = true then joinWord 0x00 (lowByte r.y) else r.y }

/-! ## Addressing -/

/-- `DPAddr(dp, idx)`: in emulation mode with D.l = 0 the sum stays in the page D.h; else it wraps in bank 0. -/
def Obligations.DirectPageAddress : Prop :=
  ∀ (r : Regs) (dp : Byte) (idx : Word),
    if r.e = true ∧ lowByte r.d = 0x00 then
      highByte (r.dpAddr dp idx) = highByte r.d ∧ (lowByte (r.dpAddr dp idx)).toNat = (dp.toNat + idx.toNat) % 256
    else (r.dpAddr dp idx).toNat = (r.d.toNat + dp.toNat + idx.toNat) % 65536

/-- The 16-bit and 24-bit pointer reads of bank 0: low byte first, where the later bytes lie, the registers and the memory
left alone. -/
def Obligations.PointerReads : Prop :=
  ∀ (s : State) (off : Word),
    (s.OffIo .read (wordAddrs 0x00 false off) →
      (s.read16Bank0 off).1 =
        joinWord (s.peek (joinAddr 0x00 (BitVec.ofNat 16 (off.toNat + 1)))) (s.peek (joinAddr 0x00 off)) ∧
      (s.read16Bank0 off).2.regs = s.regs ∧ OnlyRegs s (s.read16Bank0 off).2) ∧
    (s.OffIo .read (bytesAddrs 0x00 off 3) →
      (s.read24Bank0 off).1 =
        joinAddr (s.peek (joinAddr 0x00 (BitVec.ofNat 16 (off.toNat + 2))))
          (joinWord (s.peek (joinAddr 0x00 (BitVec.ofNat 16 (off.toNat + 1)))) (s.peek (joinAddr 0x00 off))) ∧
      (s.read24Bank0 off).2.regs = s.regs ∧ OnlyRegs s (s.read24Bank0 off).2) ∧
    (s.OffIo .read (wordAddrs 0x00 s.regs.pageWrap off) →
      (s.read16DpPtr off).1 =
        (if s.regs.e = true ∧ lowByte s.regs.d = 0x00 then
          joinWord (s.peek (joinAddr 0x00 (joinWord (highByte off) (BitVec.ofNat 8 ((lowByte off).toNat + 1)))))
            (s.peek (joinAddr 0x00 off))
        else joinWord (s.peek (joinAddr 0x00 (BitVec.ofNat 16 (off.toNat + 1)))) (s.peek (joinAddr 0x00 off))) ∧
      (s.read16DpPtr off).2.regs = s.regs ∧ OnlyRegs s (s.read16DpPtr off).2)

/-- The effective address and the wrap class of the modes that read no pointer (40_addressing.md R152 to R154, R157 to R161,
R172). -/
def Obligations.EffectiveAddresses : Prop :=
  ∀ (s : State) (a : Word) (l : Addr) (b : Byte),
    let ea := fun md => (s.effective md).1
    ((ea (.abs a)).addr = joinAddr s.regs.dbr a ∧ (ea (.abs a)).cls = .linear) ∧
    ((ea (.long l)).addr = l ∧ (ea (.long l)).cls = .linear) ∧
    ((ea (.dp b)).addr = joinAddr 0x00 (s.regs.dpAddr b 0) ∧ (ea (.dp b)).cls = .bank0) ∧
    ((ea (.absX a)).addr.toNat = ((joinAddr s.regs.dbr a).toNat + s.regs.x.toNat) % 2 ^ 24 ∧
      (ea (.absX a)).cls = .linear) ∧
    ((ea (.longX l)).addr.toNat = (l.toNat + s.regs.x.toNat) % 2 ^ 24 ∧ (ea (.longX l)).cls = .linear) ∧
    ((ea (.absY a)).addr.toNat = ((joinAddr s.regs.dbr a).toNat + s.regs.y.toNat) % 2 ^ 24 ∧
      (ea (.absY a)).cls = .linear) ∧
    ((ea (.dpX b)).addr = joinAddr 0x00 (s.regs.dpAddr b s.regs.x) ∧ (ea (.dpX b)).cls = .bank0) ∧
    ((ea (.dpY b)).addr = joinAddr 0x00 (s.regs.dpAddr b s.regs.y) ∧ (ea (.dpY b)).cls = .bank0) ∧
    ((ea (.sr b)).addr = joinAddr 0x00 (BitVec.ofNat 16 (s.regs.s.toNat + b.toNat)) ∧ (ea (.sr b)).cls = .bank0)

/-- The effective address of the modes that read a pointer, by the bytes the pointer has (40_addressing.md R155, R156, R162
to R164, R173). -/
def Obligations.EffectiveIndirect : Prop :=
  ∀ (s : State) (b : Byte),
    let ea := fun md => (s.effective md).1
    let off := fun md => s.OffIo .read (s.pointerAddrs md)
    let page := s.regs.pageWrap
    let dbr := s.regs.dbr
    (off (.dpInd b) →
      (ea (.dpInd b)).addr = joinAddr dbr (s.word 0x00 page (s.regs.dpAddr b 0)) ∧ (ea (.dpInd b)).cls = .linear) ∧
    (off (.dpIndLong b) →
      (ea (.dpIndLong b)).addr = s.long (s.regs.dpAddr b 0) ∧ (ea (.dpIndLong b)).cls = .linear) ∧
    (off (.dpXInd b) →
      (ea (.dpXInd b)).addr = joinAddr dbr (s.word 0x00 page (s.regs.dpAddr b s.regs.x)) ∧
      (ea (.dpXInd b)).cls = .linear) ∧
    (off (.dpIndY b) →
      (ea (.dpIndY b)).addr.toNat =
        ((joinAddr dbr (s.word 0x00 page (s.regs.dpAddr b 0))).toNat + s.regs.y.toNat) % 2 ^ 24 ∧
      (ea (.dpIndY b)).cls = .linear) ∧
    (off (.dpIndLongY b) →
      (ea (.dpIndLongY b)).addr.toNat = ((s.long (s.regs.dpAddr b 0)).toNat + s.regs.y.toNat) % 2 ^ 24 ∧
      (ea (.dpIndLongY b)).cls = .linear) ∧
    (off (.srIndY b) →
      (ea (.srIndY b)).addr.toNat =
        ((joinAddr dbr (s.word 0x00 false (BitVec.ofNat 16 (s.regs.s.toNat + b.toNat)))).toNat + s.regs.y.toNat) %
          2 ^ 24 ∧
      (ea (.srIndY b)).cls = .linear)

/-- `ReadData` and `WriteData`: one byte, or the low byte and then the high byte at the next address of the class. -/
def Obligations.DataAccess : Prop :=
  ∀ (s : State) (e : Ea) (v : Word),
    let next : Addr :=
      match e.cls, s.params.data16CrossesBank with
      | .bank0, _ => joinAddr 0x00 (BitVec.ofNat 16 ((offsetOf e.addr).toNat + 1))
      | .linear, true => BitVec.ofNat 24 (e.addr.toNat + 1)
      | .linear, false => joinAddr (bankOf e.addr) (BitVec.ofNat 16 ((offsetOf e.addr).toNat + 1))
    (s.OffIo .read [e.addr] →
      (s.readData .w8 e).1 = zeroExt (s.peek e.addr) ∧
      (s.readData .w8 e).2.regs = s.regs ∧ OnlyRegs s (s.readData .w8 e).2) ∧
    (s.OffIo .read [e.addr, next] →
      (s.readData .w16 e).1 = joinWord (s.peek next) (s.peek e.addr) ∧
      (s.readData .w16 e).2.regs = s.regs ∧ OnlyRegs s (s.readData .w16 e).2) ∧
    (s.OffIo .write [e.addr] →
      (s.writeData .w8 e v).regs = s.regs ∧ OnlyStores s (s.writeData .w8 e v) [(e.addr, lowByte v)]) ∧
    (s.OffIo .write [e.addr, next] →
      (s.writeData .w16 e v).regs = s.regs ∧
      OnlyStores s (s.writeData .w16 e v) [(e.addr, lowByte v), (next, highByte v)])

/-! ## Loads and stores -/

/-- LDA, LDX and LDY: the datum or the immediate in A at width `wM`, in X or Y at width `wX`, N and Z; nothing else
(41_load_store.md R191 to R193). -/
def Obligations.Loads : Prop :=
  (∀ (s : State) (a : Word) (l : Addr) (b : Byte), ∀ p ∈ ldaForms a l b,
    s.OffIo .read (s.operandAddrs s.regs.p.widthM p.2) →
    Becomes p.1 s (s.regs.resultA (s.datum s.regs.p.widthM (s.effective p.2).1))) ∧
  (∀ (s : State) (imm : Word), Becomes (.ldaImmM imm) s (s.regs.resultA imm)) ∧
  (∀ (s : State) (a : Word) (b : Byte),
    (∀ p ∈ ldxForms a b, s.OffIo .read (s.operandAddrs s.regs.p.widthX p.2) →
      Becomes p.1 s (s.regs.resultX (s.datum s.regs.p.widthX (s.effective p.2).1))) ∧
    ∀ p ∈ ldyForms a b, s.OffIo .read (s.operandAddrs s.regs.p.widthX p.2) →
      Becomes p.1 s (s.regs.resultY (s.datum s.regs.p.widthX (s.effective p.2).1))) ∧
  ∀ (s : State) (imm : Word),
    Becomes (.ldxImmX imm) s (s.regs.resultX imm) ∧ Becomes (.ldyImmX imm) s (s.regs.resultY imm)

/-- STA, STX, STY and STZ store A, X, Y or zero at the effective address, one byte or two by the width flag; no register, no
flag and no other byte changes (41_load_store.md R194 to R197). -/
def Obligations.StoreForms : Prop :=
  ∀ (s : State) (a : Word) (l : Addr) (b : Byte),
    let stores := fun (p : Instr × Mode) (w : Width) (v : Word) =>
      s.OffIo .read (s.pointerAddrs p.2) → s.OffIo .write (s.dataAddrs w (s.effective p.2).1) →
        Stores p.1 s s.regs (s.cellsUp w (s.effective p.2).1 v)
    (∀ p ∈ staForms a l b, stores p s.regs.p.widthM s.regs.a) ∧ (∀ p ∈ stxForms a b, stores p s.regs.p.widthX s.regs.x) ∧
    (∀ p ∈ styForms a b, stores p s.regs.p.widthX s.regs.y) ∧ ∀ p ∈ stzForms a b, stores p s.regs.p.widthM 0x0000

/-! ## Arithmetic, logic, compare -/

/-- ADC: A and the operand and C are added at width `wM`, in binary or in decimal as P.D says; C, V, N, Z; nothing else
(42_alu.md R211). -/
def Obligations.AddWithCarry : Prop :=
  ∀ (s : State) (v : Word),
    let p := s.regs.p
    let r :=
      if p.m then
        s.regs.sum8 (if p.d then addDecimal s.params.decimalV (lowByte s.regs.a) (lowByte v) p.c
          else addBinary (lowByte s.regs.a) (lowByte v) p.c)
      else
        s.regs.sum16 (if p.d then addDecimal s.params.decimalV s.regs.a v p.c else addBinary s.regs.a v p.c)
    Becomes (.adcImmM v) s r ∧
    ∀ (a : Word) (l : Addr) (b : Byte), ∀ q ∈ adcForms a l b, s.OffIo .read (s.operandAddrs p.widthM q.2) →
      v = s.datum p.widthM (s.effective q.2).1 → Becomes q.1 s r

/-- SBC: the operand and the borrow are subtracted from A at width `wM`, in binary or in decimal as P.D says; C, V, N, Z;
nothing else (42_alu.md R215). -/
def Obligations.SubtractWithBorrow : Prop :=
  ∀ (s : State) (v : Word),
    let p := s.regs.p
    let r :=
      if p.m then
        s.regs.sum8 (if p.d then subDecimal s.params.decimalV (lowByte s.regs.a) (lowByte v) p.c
          else subBinary (lowByte s.regs.a) (lowByte v) p.c)
      else
        s.regs.sum16 (if p.d then subDecimal s.params.decimalV s.regs.a v p.c else subBinary s.regs.a v p.c)
    Becomes (.sbcImmM v) s r ∧
    ∀ (a : Word) (l : Addr) (b : Byte), ∀ q ∈ sbcForms a l b, s.OffIo .read (s.operandAddrs p.widthM q.2) →
      v = s.datum p.widthM (s.effective q.2).1 → Becomes q.1 s r

/-- `AddBinary`: the sum modulo `2^w`, the carry out of it, V from the signs, which is the signed sum out of range. -/
def Obligations.BinaryAddition : Prop :=
  ∀ (w : Nat) (a m : BitVec w) (c : Bool), 0 < w →
    (addBinary a m c).result.toNat = (a.toNat + m.toNat + c.toNat) % 2 ^ w ∧
    ((addBinary a m c).carry = true ↔ 2 ^ w ≤ a.toNat + m.toNat + c.toNat) ∧
    (addBinary a m c).overflow =
      ((a ^^^ (addBinary a m c).result) &&& (m ^^^ (addBinary a m c).result)).getLsbD (w - 1) ∧
    ((addBinary a m c).overflow = true ↔
      a.toInt + m.toInt + (c.toNat : Int) < -(2 ^ (w - 1) : Int) ∨
        (2 ^ (w - 1) : Int) ≤ a.toInt + m.toInt + (c.toNat : Int))

/-- `SubBinary` is `AddBinary` of the complement: the difference modulo `2^w`, C set where there is no borrow, V from the
signs. -/
def Obligations.BinarySubtraction : Prop :=
  ∀ (w : Nat) (a m : BitVec w) (c : Bool), 0 < w →
    subBinary a m c = addBinary a (~~~m) c ∧
    (subBinary a m c).result.toNat = (a.toNat + (2 ^ w - 1 - m.toNat) + c.toNat) % 2 ^ w ∧
    (subBinary a m c).result.toInt = (a.toInt - m.toInt - (1 - (c.toNat : Int))).bmod (2 ^ w) ∧
    ((subBinary a m c).carry = true ↔ 2 ^ w ≤ a.toNat + (2 ^ w - 1 - m.toNat) + c.toNat) ∧
    ((subBinary a m c).carry = true ↔ m.toNat + (1 - c.toNat) ≤ a.toNat) ∧
    (subBinary a m c).overflow =
      ((a ^^^ m) &&& (a ^^^ (subBinary a m c).result)).getLsbD (w - 1)

/-- `AddDecimal` and `SubDecimal` for every operand at both widths: the digits of the result, the carry and V as the loops of
42_alu.md R213 and R217 and both values of `DECIMAL_V` (R214) give them. On valid digits they are decimal addition and decimal
subtraction, C the carry or the absence of a borrow, and the digits of the result are valid. N and Z follow the result by
`AddWithCarry` and `SubtractWithBorrow`. -/
def Obligations.DecimalArithmetic : Prop :=
  ∀ (n : Nat) (dv : DecimalV) (a m : BitVec (4 * n)) (c : Bool), n = 2 ∨ n = 4 →
    let add := addDecimal dv a m c
    let sub := subDecimal dv a m c
    let k := addCarry a.toNat m.toNat c.toNat
    let s := addSum a.toNat m.toNat c.toNat
    let k' := subCarry a.toNat m.toNat c.toNat
    let s' := subSum a.toNat m.toNat c.toNat
    ((∀ i, i < n → digit add.result.toNat i = (if 9 < s i then s i + 6 else s i) % 16) ∧
      (add.carry = true ↔ k n = 1) ∧
      ∃ r, ForOverflow n dv (s (n - 1)) add.result r ∧ add.overflow = ((a ^^^ r) &&& (m ^^^ r)).getLsbD (4 * n - 1)) ∧
    ((∀ i, i < n → (digit sub.result.toNat i : Int) = (if 15 < s' i then (s' i : Int) else (s' i : Int) - 6) % 16) ∧
      (sub.carry = true ↔ k' n = 1) ∧
      ∃ r, ForOverflow n dv (s' (n - 1)) sub.result r ∧ sub.overflow = ((a ^^^ m) &&& (a ^^^ r)).getLsbD (4 * n - 1)) ∧
    (bcdValid n a.toNat → bcdValid n m.toNat →
      bcdValid n add.result.toNat ∧
      bcdValue n add.result.toNat = (bcdValue n a.toNat + bcdValue n m.toNat + c.toNat) % 10 ^ n ∧
      (add.carry = true ↔ 10 ^ n ≤ bcdValue n a.toNat + bcdValue n m.toNat + c.toNat) ∧
      bcdValid n sub.result.toNat ∧
      bcdValue n sub.result.toNat = (bcdValue n a.toNat + 10 ^ n - bcdValue n m.toNat - (1 - c.toNat)) % 10 ^ n ∧
      (sub.carry = true ↔ bcdValue n m.toNat + (1 - c.toNat) ≤ bcdValue n a.toNat))

/-- AND, ORA and EOR: A combined bit by bit with the operand at width `wM`, N and Z; nothing else (42_alu.md R218 to
R220). -/
def Obligations.LogicForms : Prop :=
  ∀ s : State,
    (∀ v, Becomes (.andImmM v) s (s.regs.resultA (s.regs.a &&& v))) ∧
    (∀ v, Becomes (.oraImmM v) s (s.regs.resultA (s.regs.a ||| v))) ∧
    (∀ v, Becomes (.eorImmM v) s (s.regs.resultA (s.regs.a ^^^ v))) ∧
    ∀ (a : Word) (l : Addr) (b : Byte),
      let off := fun md => s.OffIo .read (s.operandAddrs s.regs.p.widthM md)
      let v := fun md => s.datum s.regs.p.widthM (s.effective md).1
      (∀ p ∈ andForms a l b, off p.2 → Becomes p.1 s (s.regs.resultA (s.regs.a &&& v p.2))) ∧
      (∀ p ∈ oraForms a l b, off p.2 → Becomes p.1 s (s.regs.resultA (s.regs.a ||| v p.2))) ∧
      ∀ p ∈ eorForms a l b, off p.2 → Becomes p.1 s (s.regs.resultA (s.regs.a ^^^ v p.2))

/-- CMP, CPX and CPY: C from the unsigned comparison, N and Z from the difference, at the register's width; no register and
no other flag changes (42_alu.md R221 to R223). -/
def Obligations.CompareForms : Prop :=
  ∀ s : State,
    let cmp := fun (narrow : Bool) (r v : Word) =>
      { s.regs with p := if narrow then s.regs.p.cmp8 (lowByte r) (lowByte v) else s.regs.p.cmp16 r v }
    (∀ v, Becomes (.cmpImmM v) s (cmp s.regs.p.m s.regs.a v)) ∧
    (∀ v, Becomes (.cpxImmX v) s (cmp s.regs.p.x s.regs.x v)) ∧
    (∀ v, Becomes (.cpyImmX v) s (cmp s.regs.p.x s.regs.y v)) ∧
    ∀ (a : Word) (l : Addr) (b : Byte),
      (∀ p ∈ cmpForms a l b, s.OffIo .read (s.operandAddrs s.regs.p.widthM p.2) →
        Becomes p.1 s (cmp s.regs.p.m s.regs.a (s.datum s.regs.p.widthM (s.effective p.2).1))) ∧
      (∀ p ∈ cpxForms a b, s.OffIo .read (s.operandAddrs s.regs.p.widthX p.2) →
        Becomes p.1 s (cmp s.regs.p.x s.regs.x (s.datum s.regs.p.widthX (s.effective p.2).1))) ∧
      ∀ p ∈ cpyForms a b, s.OffIo .read (s.operandAddrs s.regs.p.widthX p.2) →
        Becomes p.1 s (cmp s.regs.p.x s.regs.y (s.datum s.regs.p.widthX (s.effective p.2).1))

/-- BIT: Z from the AND with A at width `wM`; the memory forms copy N and V from the two top bits of the operand, the
immediate form writes Z alone; no register changes (42_alu.md R224). -/
def Obligations.BitTest : Prop :=
  ∀ s : State,
    let z := fun (v : Word) => if s.regs.p.m then decide (lowByte s.regs.a &&& lowByte v = 0) else decide (s.regs.a &&& v = 0)
    (∀ v, Becomes (.bitImmM v) s { s.regs with p := { s.regs.p with z := z v } }) ∧
    ∀ (a : Word) (b : Byte), ∀ p ∈ bitForms a b, s.OffIo .read (s.operandAddrs s.regs.p.widthM p.2) →
      let v := s.datum s.regs.p.widthM (s.effective p.2).1
      let top := if s.regs.p.m then 7 else 15
      Becomes p.1 s
        { s.regs with p := { s.regs.p with z := z v, n := v.getLsbD top, v := v.getLsbD (top - 1) } }

/-! ## Read-modify-write -/

/-- The memory forms: the operation on the datum is written back to its address at width `wM`, the high byte first, P as
the operation says; no register and no other byte changes (43_rmw.md R240 to R248). -/
def Obligations.ModifyForms : Prop :=
  ∀ (s : State) (a : Word) (b : Byte) (p : Instr × Mode) (op : RmwOp),
    (p ∈ aslForms a b ∧ op = rmwAsl) ∨ (p ∈ lsrForms a b ∧ op = rmwLsr) ∨ (p ∈ rolForms a b ∧ op = rmwRol) ∨
      (p ∈ rorForms a b ∧ op = rmwRor) ∨ (p ∈ incForms a b ∧ op = rmwInc) ∨ (p ∈ decForms a b ∧ op = rmwDec) ∨
      (p ∈ tsbForms a b ∧ op = rmwTsb) ∨ (p ∈ trbForms a b ∧ op = rmwTrb) →
    s.OffIo .read (s.operandAddrs s.regs.p.widthM p.2) →
    s.OffIo .write (s.dataAddrs s.regs.p.widthM (s.effective p.2).1) →
    let e := (s.effective p.2).1
    if s.regs.p.m then
      let r := op 8 (lowByte s.regs.a) (s.peek e.addr) s.regs.p
      Stores p.1 s { s.regs with p := r.2 } [(e.addr, r.1)]
    else
      let next := e.next s.params.data16CrossesBank
      let r := op 16 s.regs.a (joinWord (s.peek next) (s.peek e.addr)) s.regs.p
      Stores p.1 s { s.regs with p := r.2 } [(next, highByte r.1), (e.addr, lowByte r.1)]

/-- The accumulator forms, on A at width `wM`, and INX, INY, DEX and DEY at width `wX`; nothing else changes (43_rmw.md R240
to R246, R249 to R252). -/
def Obligations.ModifyRegisters : Prop :=
  ∀ s : State,
    let acc := fun (op : RmwOp) =>
      if s.regs.p.m then
        let r := op 8 (lowByte s.regs.a) (lowByte s.regs.a) s.regs.p
        { s.regs with a := s.regs.withLowA r.1, p := r.2 }
      else
        let r := op 16 s.regs.a s.regs.a s.regs.p
        { s.regs with a := r.1, p := r.2 }
    Becomes .aslAcc s (acc rmwAsl) ∧ Becomes .lsrAcc s (acc rmwLsr) ∧ Becomes .rolAcc s (acc rmwRol) ∧
    Becomes .rorAcc s (acc rmwRor) ∧ Becomes .incAcc s (acc rmwInc) ∧ Becomes .decAcc s (acc rmwDec) ∧
    Becomes .inx s (s.regs.resultX (s.regs.x + 1)) ∧ Becomes .iny s (s.regs.resultY (s.regs.y + 1)) ∧
    Becomes .dex s (s.regs.resultX (s.regs.x - 1)) ∧ Becomes .dey s (s.regs.resultY (s.regs.y - 1))

/-- What the eight operations compute at any width: the result as a number, C the bit shifted out, N and Z of the result, Z
of TSB and TRB from the old value; no other bit of P (43_rmw.md R241 to R248). -/
def Obligations.ModifyLaws : Prop :=
  ∀ (w : Nat) (a v : BitVec w) (p : Status), 0 < w →
    let nz := fun (p : Status) (r : BitVec w) => { p with z := decide (r.toNat = 0), n := r.getLsbD (w - 1) }
    let top := v.getLsbD (w - 1)
    let low := v.getLsbD 0
    let z := decide ((a &&& v).toNat = 0)
    ((rmwAsl w a v p).1.toNat = v.toNat * 2 % 2 ^ w ∧
      (rmwAsl w a v p).2 = nz { p with c := top } (rmwAsl w a v p).1) ∧
    ((rmwLsr w a v p).1.toNat = v.toNat / 2 ∧ (rmwLsr w a v p).2 = nz { p with c := low } (rmwLsr w a v p).1) ∧
    ((rmwRol w a v p).1.toNat = v.toNat * 2 % 2 ^ w + p.c.toNat ∧
      (rmwRol w a v p).2 = nz { p with c := top } (rmwRol w a v p).1) ∧
    ((rmwRor w a v p).1.toNat = v.toNat / 2 + p.c.toNat * 2 ^ (w - 1) ∧
      (rmwRor w a v p).2 = nz { p with c := low } (rmwRor w a v p).1) ∧
    ((rmwInc w a v p).1.toNat = (v.toNat + 1) % 2 ^ w ∧ (rmwInc w a v p).2 = nz p (rmwInc w a v p).1) ∧
    ((rmwDec w a v p).1.toNat = (v.toNat + (2 ^ w - 1)) % 2 ^ w ∧ (rmwDec w a v p).2 = nz p (rmwDec w a v p).1) ∧
    ((rmwTsb w a v p).1 = v ||| a ∧ (rmwTsb w a v p).2 = { p with z := z }) ∧
    ((rmwTrb w a v p).1 = v &&& ~~~a ∧ (rmwTrb w a v p).2 = { p with z := z })

/-! ## Transfers -/

/-- The thirteen transfers: the width of the destination, N and Z at that width but for TXS and TCS, the page of S latched in
emulation mode; nothing else changes (44_transfer.md R260 to R272). -/
def Obligations.Transfers : Prop :=
  ∀ s : State,
    let r := s.regs
    let nzX := fun (v : Word) => if r.p.x then r.p.nz8 (lowByte v) else r.p.nz16 v
    let sp := fun (v : Word) => if r.e then joinWord 0x01 (lowByte v) else v
    Becomes .tax s (r.resultX r.a) ∧ Becomes .tay s (r.resultY r.a) ∧ Becomes .txa s (r.resultA r.x) ∧
    Becomes .tya s (r.resultA r.y) ∧ Becomes .tsx s (r.resultX r.s) ∧ Becomes .txs s { r with s := sp r.x } ∧
    Becomes .txy s { r with y := r.x, p := nzX r.x } ∧ Becomes .tyx s { r with x := r.y, p := nzX r.y } ∧
    Becomes .tcd s { r with d := r.a, p := r.p.nz16 r.a } ∧ Becomes .tdc s { r with a := r.d, p := r.p.nz16 r.d } ∧
    Becomes .tcs s { r with s := sp r.a } ∧ Becomes .tsc s { r with a := r.s, p := r.p.nz16 r.s } ∧
    Becomes .xba s { r with a := joinWord (lowByte r.a) (highByte r.a), p := r.p.nz8 (highByte r.a) }

/-! ## The stack -/

/-- `Push8`, `Pull8`, `Push8N` and `Pull8N`: a push writes at `00:S` and then decrements S, a pull increments S and then reads
at `00:S`; in emulation mode S stays in page 0x01, but for the two of the quirk set. -/
def Obligations.StackPrimitives : Prop :=
  ∀ (s : State) (b : Byte),
    let down := if s.regs.e then joinWord 0x01 (lowByte s.regs.s - 1) else s.regs.s - 1
    let up := if s.regs.e then joinWord 0x01 (lowByte s.regs.s + 1) else s.regs.s + 1
    (s.OffIo .write [joinAddr 0x00 s.regs.s] →
      (s.push8 false b).regs = { s.regs with s := down } ∧
      OnlyStores s (s.push8 false b) [(joinAddr 0x00 s.regs.s, b)]) ∧
    (s.OffIo .read [joinAddr 0x00 up] →
      (s.pull8 false).1 = s.peek (joinAddr 0x00 up) ∧ (s.pull8 false).2.regs = { s.regs with s := up } ∧
      OnlyRegs s (s.pull8 false).2) ∧
    (s.OffIo .write [joinAddr 0x00 s.regs.s] →
      (s.push8 true b).regs = { s.regs with s := s.regs.s - 1 } ∧
      OnlyStores s (s.push8 true b) [(joinAddr 0x00 s.regs.s, b)]) ∧
    (s.OffIo .read [joinAddr 0x00 (s.regs.s + 1)] →
      (s.pull8 true).1 = s.peek (joinAddr 0x00 (s.regs.s + 1)) ∧
      (s.pull8 true).2.regs = { s.regs with s := s.regs.s + 1 } ∧ OnlyRegs s (s.pull8 true).2)

/-- The pushes: the bytes of the register or of the value, high byte first, at `00:S` and below; S lowered as often, its page
latched again after a member of the quirk set; nothing else changes (45_stack.md R283 to R285, R287, R289, R291, R293, R295,
R297 to R300). -/
def Obligations.Pushes : Prop :=
  ∀ s : State,
    let pushes := fun (i : Instr) (u : StackUser) (bytes : List Byte) =>
      s.OffIo .write ((s.pushCells u bytes).map Prod.fst) →
      Stores i s { s.regs with s := s.pushedS u bytes.length } (s.pushCells u bytes)
    let bytes := fun (v : Word) => [highByte v, lowByte v]
    pushes .pha .pha (if s.regs.p.m then [lowByte s.regs.a] else bytes s.regs.a) ∧
    pushes .phx .phx (if s.regs.p.x then [lowByte s.regs.x] else bytes s.regs.x) ∧
    pushes .phy .phy (if s.regs.p.x then [lowByte s.regs.y] else bytes s.regs.y) ∧
    pushes .php .php [s.regs.p.toByte] ∧ pushes .phb .phb [s.regs.dbr] ∧ pushes .phk .phk [s.regs.pbr] ∧
    pushes .phd .phd (bytes s.regs.d) ∧ (∀ v, pushes (.pea v) .pea (bytes v)) ∧
    (∀ b, s.OffIo .read (wordAddrs 0x00 false (s.regs.dpAddr b 0)) →
      pushes (.pei b) .pei (bytes (s.word 0x00 false (s.regs.dpAddr b 0)))) ∧
    ∀ d, pushes (.per d) .per (bytes (s.regs.pc + d))

/-- The pulls: the register from the bytes above S, low byte first, N and Z at the register's width, P normalized; S raised
as often, its page latched again after a member of the quirk set; the memory and all else unchanged (45_stack.md R283, R284,
R286, R288, R290, R292, R294, R296). -/
def Obligations.Pulls : Prop :=
  ∀ s : State,
    let pulls := fun (i : Instr) (u : StackUser) (n : Nat) (r : Regs) =>
      s.OffIo .read (s.pullAddrs u n) → Becomes i s { r with s := s.pulledS u n }
    let two := fun (u : StackUser) => joinWord (s.pulledByte u 2) (s.pulledByte u 1)
    let val := fun (u : StackUser) (narrow : Bool) => if narrow then zeroExt (s.pulledByte u 1) else two u
    let n := fun (narrow : Bool) => if narrow then 1 else 2
    pulls .pla .pla (n s.regs.p.m) (s.regs.resultA (val .pla s.regs.p.m)) ∧
    pulls .plx .plx (n s.regs.p.x) (s.regs.resultX (val .plx s.regs.p.x)) ∧
    pulls .ply .ply (n s.regs.p.x) (s.regs.resultY (val .ply s.regs.p.x)) ∧
    pulls .plp .plp 1 (Regs.normalize { s.regs with p := Status.ofByte (s.pulledByte .plp 1) }) ∧
    pulls .plb .plb 1 { s.regs with dbr := s.pulledByte .plb 1, p := s.regs.p.nz8 (s.pulledByte .plb 1) } ∧
    pulls .pld .pld 2 { s.regs with d := two .pld, p := s.regs.p.nz16 (two .pld) }

/-- A pull right after the push of its register restores the register and S, at both widths, where the stack is RAM and, for
a member of the quirk set in emulation mode, no page edge is crossed (45_stack.md R283, R301). -/
def Obligations.StackBalance : Prop :=
  ∀ s : State, s.Flat → s.bus.mem.wf = true → s.regs.Ok →
    let safe := fun (u u' : StackUser) =>
      s.regs.e = false ∨ (s.quirk u = false ∧ s.quirk u' = false) ∨ 2 ≤ (lowByte s.regs.s).toNat
    let pair := fun (i i' : Instr) (kept : Regs → Prop) =>
      ∃ t u, exec i s = .next t ∧ exec i' t = .next u ∧ kept u.regs ∧ u.regs.s = s.regs.s
    (safe .pha .pla → pair .pha .pla fun r => r.a = s.regs.a) ∧
    (safe .phx .plx → pair .phx .plx fun r => r.x = s.regs.x) ∧
    (safe .phy .ply → pair .phy .ply fun r => r.y = s.regs.y) ∧
    (safe .php .plp → pair .php .plp fun r => r.p = s.regs.p ∧ r.x = s.regs.x ∧ r.y = s.regs.y) ∧
    (safe .phb .plb → pair .phb .plb fun r => r.dbr = s.regs.dbr) ∧
    (safe .phd .pld → pair .phd .pld fun r => r.d = s.regs.d)

/-! ## Control flow -/

/-- The branches: PC plus the sign-extended displacement inside the bank where the condition holds, else PC; nothing else
(46_flow.md R310 to R320). -/
def Obligations.Branches : Prop :=
  ∀ (s : State) (d : Byte),
    let goes := fun (cond : Bool) => s.regs.at (if cond then s.regs.pc + d.signExtend 16 else s.regs.pc)
    Becomes (.bcc d) s (goes (!s.regs.p.c)) ∧ Becomes (.bcs d) s (goes s.regs.p.c) ∧
    Becomes (.bne d) s (goes (!s.regs.p.z)) ∧ Becomes (.beq d) s (goes s.regs.p.z) ∧
    Becomes (.bpl d) s (goes (!s.regs.p.n)) ∧ Becomes (.bmi d) s (goes s.regs.p.n) ∧
    Becomes (.bvc d) s (goes (!s.regs.p.v)) ∧ Becomes (.bvs d) s (goes s.regs.p.v) ∧ Becomes (.bra d) s (goes true) ∧
    ∀ d16 : Word, Becomes (.brl d16) s (s.regs.at (s.regs.pc + d16))

/-- JMP and JML: PC, and for JML PBR, from the operand or from the pointer; nothing else (46_flow.md R321, R322,
40_addressing.md R165, R168 to R171). -/
def Obligations.Jumps : Prop :=
  ∀ (s : State) (a : Word) (l : Addr),
    let wraps := decide (s.params.jmpIndPageWrap = .always ∨
      (s.params.jmpIndPageWrap = .emulationOnly ∧ s.regs.e = true))
    Becomes (.jmpPcAbs a) s (s.regs.at a) ∧
    (s.OffIo .read (wordAddrs 0x00 wraps a) → Becomes (.jmpPcInd a) s (s.regs.at (s.word 0x00 wraps a))) ∧
    (s.OffIo .read (wordAddrs s.regs.pbr false (a + s.regs.x)) →
      Becomes (.jmpPcIndX a) s (s.regs.at (s.word s.regs.pbr false (a + s.regs.x)))) ∧
    Becomes (.jmlPcLong l) s { s.regs with pc := offsetOf l, pbr := bankOf l } ∧
    (s.OffIo .read (bytesAddrs 0x00 a 3) →
      Becomes (.jmlPcIndLong a) s { s.regs with pc := offsetOf (s.long a), pbr := bankOf (s.long a) })

/-- JSR and JSL push the address of their last operand byte, JSL after PBR, and jump; the pointer of JSR (abs,X) is read from
the memory after the pushes; RTS and RTL pull that address and add 1; nothing else changes (46_flow.md R323 to R326). -/
def Obligations.CallsAndReturns : Prop :=
  ∀ (s : State) (a : Word) (l : Addr),
    let ret := s.regs.pc - 1
    let back := [highByte ret, lowByte ret]
    (s.OffIo .write ((s.pushCells .jsr back).map Prod.fst) →
      Stores (.jsrPcAbs a) s { s.regs with pc := a, s := s.pushedS .jsr 2 } (s.pushCells .jsr back)) ∧
    (s.OffIo .write ((s.pushCells .jsr back).map Prod.fst) →
      s.OffIo .read (wordAddrs s.regs.pbr false (a + s.regs.x)) → ∃ t, exec (.jsrPcIndX a) s = .next t ∧ OnlyStores s t (s.pushCells .jsr back) ∧
      t.regs = { s.regs with pc := t.word s.regs.pbr false (a + s.regs.x), s := s.pushedS .jsr 2 }) ∧
    (s.OffIo .write ((s.pushCells .jsl (s.regs.pbr :: back)).map Prod.fst) →
      Stores (.jsl l) s { s.regs with pc := offsetOf l, pbr := bankOf l, s := s.pushedS .jsl 3 }
        (s.pushCells .jsl (s.regs.pbr :: back))) ∧
    (s.OffIo .read (s.pullAddrs .rts 2) → Becomes .rts s
      { s.regs with pc := joinWord (s.pulledByte .rts 2) (s.pulledByte .rts 1) + 1, s := s.pulledS .rts 2 }) ∧
    (s.OffIo .read (s.pullAddrs .rtl 3) → Becomes .rtl s
      { s.regs with
        pc := joinWord (s.pulledByte .rtl 2) (s.pulledByte .rtl 1) + 1
        pbr := s.pulledByte .rtl 3
        s := s.pulledS .rtl 3 })

/-- A subroutine that returns at once returns to the instruction after the call, with PBR and S as before it, where the
stack is RAM and, for a member of the quirk set in emulation mode (45_stack.md R283), no page edge is crossed (46_flow.md R323
to R327). -/
def Obligations.CallThenReturn : Prop :=
  ∀ (s : State) (a : Word) (l : Addr), s.Flat → s.bus.mem.wf = true → s.regs.Ok →
    let safe := fun (u u' : StackUser) (n : Nat) =>
      s.regs.e = false ∨ (s.quirk u = false ∧ s.quirk u' = false) ∨ n ≤ (lowByte s.regs.s).toNat
    let pair := fun (i i' : Instr) =>
      ∃ t u, exec i s = .next t ∧ exec i' t = .next u ∧ u.regs = s.regs ∧ u.pins = s.pins
    (safe .jsr .rts 2 → pair (.jsrPcAbs a) .rts ∧ pair (.jsrPcIndX a) .rts) ∧ (safe .jsl .rtl 3 → pair (.jsl l) .rtl)

/-! ## Flags, mode, no-operations -/

/-- CLC, SEC, CLI, SEI, CLD, SED and CLV write one bit of P and touch nothing else; NOP and WDM change
nothing but the clock, PC having moved past them (47_flags_mode.md R340 to R346, R349 to R351). -/
def Obligations.FlagsAndNoOperations : Prop :=
  ∀ s : State,
    let p := s.regs.p
    Becomes .clc s { s.regs with p := { p with c := false } } ∧ Becomes .sec s { s.regs with p := { p with c := true } } ∧
    Becomes .cli s { s.regs with p := { p with i := false } } ∧ Becomes .sei s { s.regs with p := { p with i := true } } ∧
    Becomes .cld s { s.regs with p := { p with d := false } } ∧ Becomes .sed s { s.regs with p := { p with d := true } } ∧
    Becomes .clv s { s.regs with p := { p with v := false } } ∧ Becomes .nop s s.regs ∧
    ∀ sig, Becomes (.wdm sig) s s.regs

/-- REP clears and SEP sets the bits of the mask, XCE exchanges C and E; each is followed by `Normalize()`; nothing else
changes (47_flags_mode.md R347, R348, R352). -/
def Obligations.ModeInstructions : Prop :=
  ∀ (s : State) (mask : Byte),
    Becomes (.rep mask) s (Regs.normalize { s.regs with p := Status.ofByte (s.regs.p.toByte &&& ~~~mask) }) ∧
    Becomes (.sep mask) s (Regs.normalize { s.regs with p := Status.ofByte (s.regs.p.toByte ||| mask) }) ∧
    Becomes .xce s (Regs.normalize { s.regs with p := { s.regs.p with c := s.regs.e }, e := s.regs.p.c })

/-! ## Block moves -/

/-- One step of MVN or MVP moves one byte from `src:X` to `dst:Y`, steps X and Y up or down at width `wX` and decrements all
of A; PC goes back to the instruction unless A was 0, and then DBR is the destination bank; nothing else changes
(48_block_move.md R360 to R362). -/
def Obligations.BlockMoves : Prop :=
  ∀ (s : State) (dst src : Byte), s.OffIo .read [joinAddr src s.regs.x] → s.OffIo .write [joinAddr dst s.regs.y] →
    let after := fun (x y : Word) =>
      { s.regs with
        x := if s.regs.p.x then zeroExt (lowByte x) else x
        y := if s.regs.p.x then zeroExt (lowByte y) else y
        a := s.regs.a - 1
        pc := if s.regs.a = 0x0000 then s.regs.pc else s.regs.pc - 3
        dbr := if s.regs.a = 0x0000 then dst else s.regs.dbr }
    let cell := [(joinAddr dst s.regs.y, s.peek (joinAddr src s.regs.x))]
    Stores (.mvn dst src) s (after (s.regs.x + 1) (s.regs.y + 1)) cell ∧
    Stores (.mvp dst src) s (after (s.regs.x - 1) (s.regs.y - 1)) cell

/-! ## Software interrupts and their return -/

/-- BRK and COP take their exception whatever P.I is: the frame is stored, I set, D cleared, PBR cleared, PC from their
vector (49_system.md R370, R371, 60_exceptions.md R390). Where the quirk set holds BRK or COP, the frame of `frameCells` and
`frameS` goes down by `Push8N` and S.h is latched at the end: the model's reading (45_stack.md R283, log 15). -/
def Obligations.SoftwareInterrupts : Prop :=
  ∀ (s : State) (sig : Byte),
    (s.EntryOffIo .brk → ∃ t, exec (.brk sig) s = .next t ∧ Enters .brk s t) ∧
    (s.EntryOffIo .cop → ∃ t, exec (.cop sig) s = .next t ∧ Enters .cop s t)

/-- The vectors of the four kinds, native and emulation (60_exceptions.md R391), and the pushed status byte: P as it is in
native mode and for BRK and COP, whose bit `BREAK_BIT` is 1 in emulation mode; P with that bit cleared for an IRQ or NMI in
emulation mode. -/
def Obligations.EntryTables : Prop :=
  ((vectorOffset false .cop = 0xFFE4 ∧ vectorOffset true .cop = 0xFFF4) ∧
    (vectorOffset false .brk = 0xFFE6 ∧ vectorOffset true .brk = 0xFFFE) ∧
    (vectorOffset false .nmi = 0xFFEA ∧ vectorOffset true .nmi = 0xFFFA) ∧
    (vectorOffset false .irq = 0xFFEE ∧ vectorOffset true .irq = 0xFFFE)) ∧
  ∀ (b : BreakBit) (p : Status),
    let k := match b with
      | .bit4 => 4
      | .bit5 => 5
    (∀ kind, pushedStatus b false p kind = p.toByte) ∧
    (∀ kind, kind = .brk ∨ kind = .cop → pushedStatus b true p kind = p.toByte ∧
      (p.m = true → p.x = true → (pushedStatus b true p kind).getLsbD k = true)) ∧
    ∀ kind, kind = .irq ∨ kind = .nmi → ∀ i, i < 8 →
      (pushedStatus b true p kind).getLsbD i = (if i = k then false else p.toByte.getLsbD i)

/-- The byte of P: C, Z, I, D, X, M, V, N from bit 0 up; the byte and P determine each other (10_state.md R29, R30). -/
def Obligations.StatusByteLayout : Prop :=
  (∀ p : Status,
    (List.range 8).map p.toByte.getLsbD = [p.c, p.z, p.i, p.d, p.x, p.m, p.v, p.n] ∧ Status.ofByte p.toByte = p) ∧
  ∀ b : Byte, (Status.ofByte b).toByte = b

/-- RTI: P from the first byte pulled, normalized; PC from the next two; in native mode PBR from the fourth; E, and all else,
unchanged (49_system.md R372). The third clause is for a quirk set that holds RTI (45_stack.md R283, log 15). -/
def Obligations.ReturnFromInterrupt : Prop :=
  ∀ s : State, s.OffIo .read (s.returnAddrs (s.quirk .rti)) →
    let r := Regs.normalize { s.regs with p := Status.ofByte (s.pulledByte .rti 1) }
    (s.regs.e = false →
      Becomes .rti s
        { r with
          pc := joinWord (s.pulledByte .rti 3) (s.pulledByte .rti 2)
          pbr := s.pulledByte .rti 4
          s := s.pulledS .rti 4 }) ∧
    (s.regs.e = true → s.quirk .rti = false →
      Becomes .rti s
        { r with pc := joinWord (s.pulledByte .rti 3) (s.pulledByte .rti 2), s := s.pulledS .rti 3 }) ∧
    (s.regs.e = true → s.quirk .rti = true →
      let sp := joinWord 0x01 (lowByte (s.regs.s + 1))
      Becomes .rti s
        { r with
          pc := joinWord (s.peek (joinAddr 0x00 (sp + 2))) (s.peek (joinAddr 0x00 (sp + 1)))
          s := joinWord 0x01 (lowByte (sp + 2)) })

/-- RTI right after an entry goes on where the program was: P, PC, S and, in native mode, PBR are as before, in emulation mode
PBR is 0; A, X, Y, D, DBR and E were never touched (60_exceptions.md R390, R395, R397, 49_system.md R372; that a quirk set may
hold BRK, COP or RTI is the model's reading of 45_stack.md R283, log 15). -/
def Obligations.EntryThenReturn : Prop :=
  ∀ (s : State) (kind : EntryKind), s.Flat → s.bus.mem.wf = true → s.regs.Ok →
    s.regs.e = false ∨ (s.entryQuirk kind = false ∧ s.quirk .rti = false) →
    ∃ u, exec .rti (s.interruptEntry kind) = .next u ∧
      u.regs = { s.regs with pbr := if s.regs.e then 0x00 else s.regs.pbr }

end Claims
end

