-- ==== Sys2Proof/Laws/Bits.lean ====
section
/-! SUPPORT. The parts of words and addresses put together and taken apart; the status byte and its bits. -/

namespace Sys2Proof.Machine

@[simp] theorem lowByte_joinWord (h l : Byte) : lowByte (joinWord h l) = l := by
  apply BitVec.eq_of_getLsbD_eq; intro i hi
  simp only [lowByte, joinWord, BitVec.getLsbD_extractLsb', BitVec.getLsbD_append]
  simp [hi]

@[simp] theorem highByte_joinWord (h l : Byte) : highByte (joinWord h l) = h := by
  apply BitVec.eq_of_getLsbD_eq; intro i hi
  simp only [highByte, joinWord, BitVec.getLsbD_extractLsb', BitVec.getLsbD_append]
  simp [hi]

@[simp] theorem joinWord_parts (w : Word) : joinWord (highByte w) (lowByte w) = w := by
  apply BitVec.eq_of_getLsbD_eq; intro i hi
  simp only [joinWord, highByte, lowByte, BitVec.getLsbD_extractLsb', BitVec.getLsbD_append]
  grind

@[simp] theorem offsetOf_joinAddr (b : Byte) (o : Word) : offsetOf (joinAddr b o) = o := by
  apply BitVec.eq_of_getLsbD_eq; intro i hi
  simp only [offsetOf, joinAddr, BitVec.getLsbD_extractLsb', BitVec.getLsbD_append]
  simp [hi]

@[simp] theorem bankOf_joinAddr (b : Byte) (o : Word) : bankOf (joinAddr b o) = b := by
  apply BitVec.eq_of_getLsbD_eq; intro i hi
  simp only [bankOf, joinAddr, BitVec.getLsbD_extractLsb', BitVec.getLsbD_append]
  simp [hi]

@[simp] theorem joinAddr_parts (a : Addr) : joinAddr (bankOf a) (offsetOf a) = a := by
  apply BitVec.eq_of_getLsbD_eq; intro i hi
  simp only [joinAddr, bankOf, offsetOf, BitVec.getLsbD_extractLsb', BitVec.getLsbD_append]
  grind

theorem joinAddr_inj {b b' : Byte} {o o' : Word} (h : joinAddr b o = joinAddr b' o') : b = b' ∧ o = o' :=
  ⟨by simpa using congrArg bankOf h, by simpa using congrArg offsetOf h⟩

theorem joinWord_inj {b b' c c' : Byte} (h : joinWord b c = joinWord b' c') : b = b' ∧ c = c' :=
  ⟨by simpa using congrArg highByte h, by simpa using congrArg lowByte h⟩

theorem zeroExt_eq_joinWord (b : Byte) : zeroExt b = joinWord 0x00 b := by
  apply BitVec.eq_of_getLsbD_eq; intro i hi
  simp only [zeroExt, joinWord, BitVec.getLsbD_setWidth, BitVec.getLsbD_append]
  by_cases h : i < 8
  · simp [h]; omega
  · simp [h, BitVec.getLsbD_of_ge b i (by omega)]

@[simp] theorem lowByte_zeroExt (b : Byte) : lowByte (zeroExt b) = b := by simp [zeroExt_eq_joinWord]

@[simp] theorem highByte_zeroExt (b : Byte) : highByte (zeroExt b) = 0x00 := by simp [zeroExt_eq_joinWord]

/-- A word whose high byte is zero is its low byte extended. -/
theorem zeroExt_lowByte {w : Word} (h : highByte w = 0x00) : zeroExt (lowByte w) = w := by
  rw [zeroExt_eq_joinWord, ← h, joinWord_parts]

/-- The byte of P and P determine each other (10_state.md R30). -/
@[simp] theorem ofByte_toByte (p : Status) : Status.ofByte p.toByte = p := by
  rcases p with ⟨c, z, i, d, x, m, v, n⟩
  revert c z i d x m v n; decide

end Sys2Proof.Machine
end

