-- ==== Sys2Proof/Laws/Memory.lean ====
section
/-! SUPPORT. Storage: a read after a write, and the canonical form kept. -/

namespace Sys2Proof.Machine

/-! ## Stores as lists -/

theorem cellsWf_mono {lo lo' hi : Nat} (h : lo' ≤ lo) {l : List Host.Cell} (hl : cellsWf lo hi l = true) :
    cellsWf lo' hi l = true := by
  cases l with
  | nil => rfl
  | cons c l =>
    obtain ⟨k, v⟩ := c
    simp only [cellsWf, Bool.and_eq_true, decide_eq_true_eq] at hl ⊢
    exact ⟨⟨⟨by omega, hl.1.1.2⟩, hl.1.2⟩, hl.2⟩

/-- Below its first address a canonical store lists nothing. -/
theorem cellRead_below {lo hi k : Nat} (hk : k < lo) {l : List Host.Cell} (hl : cellsWf lo hi l = true) :
    cellRead l k = unlistedByte := by
  induction l generalizing lo with
  | nil => rfl
  | cons c l ih =>
    obtain ⟨k', v⟩ := c
    simp only [cellsWf, Bool.and_eq_true, decide_eq_true_eq] at hl
    simp only [cellRead, if_neg (show k ≠ k' by omega)]
    exact ih (by omega) hl.2

theorem cellWrite_wf {lo hi k : Nat} {v : Byte} (h1 : lo ≤ k) (h2 : k < hi) {l : List Host.Cell}
    (hl : cellsWf lo hi l = true) : cellsWf lo hi (cellWrite l k v) = true := by
  induction l generalizing lo with
  | nil => unfold cellWrite; split <;> simp_all [cellsWf]
  | cons c l ih =>
    obtain ⟨k', v'⟩ := c
    have hl' := hl
    simp only [cellsWf, Bool.and_eq_true, decide_eq_true_eq] at hl'
    unfold cellWrite
    split
    · split
      · exact hl
      · simp only [cellsWf, Bool.and_eq_true, decide_eq_true_eq]
        exact ⟨⟨⟨h1, h2⟩, by assumption⟩, ⟨⟨by omega, hl'.1.1.2⟩, hl'.1.2⟩, hl'.2⟩
    · split
      · split
        · exact cellsWf_mono (by omega) hl'.2
        · simp only [cellsWf, Bool.and_eq_true, decide_eq_true_eq]
          subst k'
          exact ⟨⟨⟨h1, h2⟩, by assumption⟩, hl'.2⟩
      · simp only [cellsWf, Bool.and_eq_true, decide_eq_true_eq]
        exact ⟨hl'.1, ih (by omega) hl'.2⟩

/-- A write leaves every other address alone. -/
theorem cellRead_cellWrite_ne {l : List Host.Cell} {k j : Nat} {v : Byte} (h : j ≠ k) :
    cellRead (cellWrite l k v) j = cellRead l j := by
  induction l with
  | nil => unfold cellWrite; split <;> simp [cellRead, h]
  | cons c l ih =>
    obtain ⟨k', v'⟩ := c
    unfold cellWrite
    split
    · split <;> simp [cellRead, h]
    · split
      · subst k'; split <;> simp [cellRead, h]
      · simp [cellRead, ih]

/-- A read after a write to the same address gives the value written. -/
theorem cellRead_cellWrite_eq {lo hi k : Nat} {v : Byte} {l : List Host.Cell} (hl : cellsWf lo hi l = true) :
    cellRead (cellWrite l k v) k = v := by
  induction l generalizing lo with
  | nil => unfold cellWrite; split <;> simp_all [cellRead]
  | cons c l ih =>
    obtain ⟨k', v'⟩ := c
    have hl' := hl
    simp only [cellsWf, Bool.and_eq_true, decide_eq_true_eq] at hl'
    unfold cellWrite
    split
    · split
      · subst v
        simp only [cellRead, if_neg (show k ≠ k' by omega)]
        exact cellRead_below (by omega) hl'.2
      · simp [cellRead]
    · split
      · split
        · subst v; subst k'; exact cellRead_below (Nat.lt_succ_self _) hl'.2
        · simp [cellRead]
      · simp only [cellRead]
        rw [if_neg (by assumption)]
        exact ih hl'.2

/-! ## Maps as lists -/

theorem entriesWf_mono {α : Type} {lo lo' hi : Nat} (h : lo' ≤ lo) {l : List (Nat × α)}
    (hl : entriesWf lo hi l = true) : entriesWf lo' hi l = true := by
  cases l with
  | nil => rfl
  | cons c l =>
    obtain ⟨k, v⟩ := c
    simp only [entriesWf, Bool.and_eq_true, decide_eq_true_eq] at hl ⊢
    exact ⟨⟨by omega, hl.1.2⟩, hl.2⟩

theorem entryWrite_wf {α : Type} {lo hi k : Nat} {v : Option α} (h1 : lo ≤ k) (h2 : k < hi) {l : List (Nat × α)}
    (hl : entriesWf lo hi l = true) : entriesWf lo hi (entryWrite l k v) = true := by
  induction l generalizing lo with
  | nil => unfold entryWrite; split <;> simp_all [entriesWf]
  | cons c l ih =>
    obtain ⟨k', v'⟩ := c
    have hl' := hl
    simp only [entriesWf, Bool.and_eq_true, decide_eq_true_eq] at hl'
    unfold entryWrite
    split
    · split
      · simp only [entriesWf, Bool.and_eq_true, decide_eq_true_eq]
        exact ⟨⟨h1, h2⟩, ⟨by omega, hl'.1.2⟩, hl'.2⟩
      · exact hl
    · split
      · subst k'
        split
        · simp only [entriesWf, Bool.and_eq_true, decide_eq_true_eq]
          exact ⟨⟨h1, h2⟩, hl'.2⟩
        · exact entriesWf_mono (by omega) hl'.2
      · simp only [entriesWf, Bool.and_eq_true, decide_eq_true_eq]
        exact ⟨hl'.1, ih (by omega) hl'.2⟩

/-! ## Locations -/

theorem joinAddr_toNat (b : Byte) (o : Word) : (joinAddr b o).toNat = b.toNat * 2 ^ 16 + o.toNat := by
  have := o.isLt
  rw [joinAddr, BitVec.toNat_append, ← Nat.shiftLeft_add_eq_or_of_lt this, Nat.shiftLeft_eq]

/-- A location's address in its store. -/
theorem Loc.key_eq (l : Loc) : l.key = (storeBankNumber l.store).toNat * 2 ^ 16 + l.offset.toNat := joinAddr_toNat _ _

theorem Loc.key_lt (l : Loc) : l.key < 2 ^ 24 := (joinAddr (storeBankNumber l.store) l.offset).isLt

theorem slowBankNumber_inj {b c : SlowBank} (h : slowBankNumber b = slowBankNumber c) : b = c := by
  cases b <;> cases c <;> first | rfl | exact absurd h (by decide)

theorem Loc.key_inj_bank {l l' : Loc} (h : l.key = l'.key) :
    storeBankNumber l.store = storeBankNumber l'.store ∧ l.offset = l'.offset := by
  unfold Loc.key at h
  exact joinAddr_inj (BitVec.eq_of_toNat_eq h)

/-- A byte put at a location is read there. -/
theorem Memory.byte_put_eq {m : Memory} {l : Loc} {v : Byte} (hm : m.wf = true) : (m.put l v).byte l = v := by
  simp only [Memory.wf, Bool.and_eq_true] at hm
  rcases l with ⟨st, o⟩
  cases st <;> simp only [Memory.put, Memory.byte]
  · exact cellRead_cellWrite_eq hm.1.1
  · exact cellRead_cellWrite_eq hm.1.2
  · exact cellRead_cellWrite_eq hm.2

/-- A byte put at a location leaves every other location alone. -/
theorem Memory.byte_put_ne {m : Memory} {l l' : Loc} {v : Byte} (h : l' ≠ l) : (m.put l v).byte l' = m.byte l' := by
  have key : ∀ {st st' : StoreBank} {o o' : Word}, (storeBankNumber st' = storeBankNumber st → st' = st) →
      (Loc.mk st' o') ≠ (Loc.mk st o) → (Loc.mk st' o').key ≠ (Loc.mk st o).key := by
    intro st st' o o' hs hne hk
    obtain ⟨hb, ho⟩ := Loc.key_inj_bank hk
    exact hne (by rw [Loc.mk.injEq]; exact ⟨hs hb, ho⟩)
  rcases l with ⟨st, o⟩
  rcases l' with ⟨st', o'⟩
  cases st <;> cases st' <;> simp only [Memory.put, Memory.byte]
  · exact cellRead_cellWrite_ne (key (by simp [storeBankNumber]) h)
  · exact cellRead_cellWrite_ne (key (by simp only [storeBankNumber]; intro e; rw [slowBankNumber_inj e]) h)
  · exact cellRead_cellWrite_ne (key (by simp [storeBankNumber]) h)

/-- Every operation of the memory keeps the canonical form. -/
theorem Memory.put_wf {m : Memory} {l : Loc} {v : Byte} (hm : m.wf = true) : (m.put l v).wf = true := by
  simp only [Memory.wf, Bool.and_eq_true] at hm
  rcases l with ⟨st, o⟩
  have hk := Loc.key_lt ⟨st, o⟩
  cases st with
  | fast b =>
    simp only [Memory.put, Memory.wf, Bool.and_eq_true]
    exact ⟨⟨cellWrite_wf (Nat.zero_le _) hk hm.1.1, hm.1.2⟩, hm.2⟩
  | slow b =>
    simp only [Memory.put, Memory.wf, Bool.and_eq_true]
    refine ⟨⟨hm.1.1, cellWrite_wf ?_ ?_ hm.1.2⟩, hm.2⟩
    · rw [Loc.key_eq]; cases b
      · simp [storeBankNumber, slowBankNumber]
      · simp only [storeBankNumber, slowBankNumber, BitVec.reduceToNat]; omega
    · rw [Loc.key_eq]; have := o.isLt; cases b <;> simp [storeBankNumber, slowBankNumber] <;> omega
  | rom b =>
    simp only [Memory.put, Memory.wf, Bool.and_eq_true]
    exact ⟨⟨hm.1.1, hm.1.2⟩, cellWrite_wf (Nat.zero_le _) hk hm.2⟩

theorem Memory.write_wf {m : Memory} {l : Loc} {v : Byte} (hm : m.wf = true) : (m.write l v).wf = true := by
  unfold Memory.write; split
  · exact hm
  · exact Memory.put_wf hm

/-- A write of the core to storage that is no ROM is read back. -/
theorem Memory.byte_write_eq {m : Memory} {l : Loc} {v : Byte} (hm : m.wf = true) (h : ∀ b, l.store ≠ .rom b) :
    (m.write l v).byte l = v := by
  unfold Memory.write; split
  · exact absurd ‹_› (h _)
  · exact Memory.byte_put_eq hm

theorem Memory.byte_write_ne {m : Memory} {l l' : Loc} {v : Byte} (h : l' ≠ l) : (m.write l v).byte l' = m.byte l' := by
  unfold Memory.write; split
  · rfl
  · exact Memory.byte_put_ne h

/-- No write of the core reaches the ROM image (20_memory.md R79). -/
@[simp] theorem Memory.write_rom (m : Memory) (l : Loc) (v : Byte) : (m.write l v).rom = m.rom := by
  rcases l with ⟨st, o⟩; cases st <;> rfl

end Sys2Proof.Machine
end

