-- ==== Sys2Proof/Laws/State.lean ====
section
/-! SUPPORT. What each update of the state leaves of each field. -/

namespace Sys2Proof.Machine

@[simp] theorem State.internal_regs (s : State) (n : Nat) : (s.internal n).regs = s.regs := rfl
@[simp] theorem State.internal_pins (s : State) (n : Nat) : (s.internal n).pins = s.pins := rfl
@[simp] theorem State.internal_clock (s : State) (n : Nat) : (s.internal n).clock = s.clock.charge false n := rfl
@[simp] theorem State.internal_bus (s : State) (n : Nat) : (s.internal n).bus = s.bus := rfl
@[simp] theorem State.internal_fetchPbr (s : State) (n : Nat) : (s.internal n).fetchPbr = s.fetchPbr := rfl
@[simp] theorem State.internal_fetchPc (s : State) (n : Nat) : (s.internal n).fetchPc = s.fetchPc := rfl
@[simp] theorem State.internal_trace (s : State) (n : Nat) : (s.internal n).trace = s.trace := rfl
@[simp] theorem State.internal_params (s : State) (n : Nat) : (s.internal n).params = s.params := rfl

@[simp] theorem State.settle_regs (s s0 : State) (a b : Nat) : (s.settle a b s0).regs = s.regs := rfl
@[simp] theorem State.settle_pins (s s0 : State) (a b : Nat) : (s.settle a b s0).pins = s.pins := rfl
@[simp] theorem State.settle_bus (s s0 : State) (a b : Nat) : (s.settle a b s0).bus = s.bus := rfl
@[simp] theorem State.settle_fetchPbr (s s0 : State) (a b : Nat) : (s.settle a b s0).fetchPbr = s.fetchPbr := rfl
@[simp] theorem State.settle_fetchPc (s s0 : State) (a b : Nat) : (s.settle a b s0).fetchPc = s.fetchPc := rfl
@[simp] theorem State.settle_trace (s s0 : State) (a b : Nat) : (s.settle a b s0).trace = s.trace := rfl
@[simp] theorem State.settle_params (s s0 : State) (a b : Nat) : (s.settle a b s0).params = s.params := rfl

@[simp] theorem State.busCycle_regs (s : State) (t : Target) : (s.busCycle t).regs = s.regs := rfl
@[simp] theorem State.busCycle_pins (s : State) (t : Target) : (s.busCycle t).pins = s.pins := rfl
@[simp] theorem State.busCycle_clock (s : State) (t : Target) : (s.busCycle t).clock = s.clock.charge (targetSlow t) 1 := rfl
@[simp] theorem State.busCycle_bus (s : State) (t : Target) : (s.busCycle t).bus = s.bus := rfl
@[simp] theorem State.busCycle_fetchPbr (s : State) (t : Target) : (s.busCycle t).fetchPbr = s.fetchPbr := rfl
@[simp] theorem State.busCycle_fetchPc (s : State) (t : Target) : (s.busCycle t).fetchPc = s.fetchPc := rfl
@[simp] theorem State.busCycle_trace (s : State) (t : Target) : (s.busCycle t).trace = s.trace := rfl
@[simp] theorem State.busCycle_params (s : State) (t : Target) : (s.busCycle t).params = s.params := rfl

@[simp] theorem State.mapRegs_regs (s : State) (f : Regs → Regs) : (s.mapRegs f).regs = f s.regs := rfl
@[simp] theorem State.mapRegs_pins (s : State) (f : Regs → Regs) : (s.mapRegs f).pins = s.pins := rfl
@[simp] theorem State.mapRegs_clock (s : State) (f : Regs → Regs) : (s.mapRegs f).clock = s.clock := rfl
@[simp] theorem State.mapRegs_bus (s : State) (f : Regs → Regs) : (s.mapRegs f).bus = s.bus := rfl
@[simp] theorem State.mapRegs_fetchPbr (s : State) (f : Regs → Regs) : (s.mapRegs f).fetchPbr = s.fetchPbr := rfl
@[simp] theorem State.mapRegs_fetchPc (s : State) (f : Regs → Regs) : (s.mapRegs f).fetchPc = s.fetchPc := rfl
@[simp] theorem State.mapRegs_trace (s : State) (f : Regs → Regs) : (s.mapRegs f).trace = s.trace := rfl
@[simp] theorem State.mapRegs_params (s : State) (f : Regs → Regs) : (s.mapRegs f).params = s.params := rfl

@[simp] theorem State.applyIo_regs (s : State) (x : IoAccess) : (s.applyIo x).regs = s.regs := rfl
@[simp] theorem State.applyIo_fetchPbr (s : State) (x : IoAccess) : (s.applyIo x).fetchPbr = s.fetchPbr := rfl
@[simp] theorem State.applyIo_fetchPc (s : State) (x : IoAccess) : (s.applyIo x).fetchPc = s.fetchPc := rfl
@[simp] theorem State.applyIo_trace (s : State) (x : IoAccess) : (s.applyIo x).trace = s.trace := rfl
@[simp] theorem State.applyIo_params (s : State) (x : IoAccess) : (s.applyIo x).params = s.params := rfl

@[simp] theorem State.recordTrace_regs (s s0 : State) (f : Fetched) : (s.recordTrace f s0).regs = s.regs := rfl
@[simp] theorem State.recordTrace_pins (s s0 : State) (f : Fetched) : (s.recordTrace f s0).pins = s.pins := rfl
@[simp] theorem State.recordTrace_clock (s s0 : State) (f : Fetched) : (s.recordTrace f s0).clock = s.clock := rfl
@[simp] theorem State.recordTrace_bus (s s0 : State) (f : Fetched) : (s.recordTrace f s0).bus = s.bus := rfl
@[simp] theorem State.recordTrace_fetchPbr (s s0 : State) (f : Fetched) : (s.recordTrace f s0).fetchPbr = s.fetchPbr := rfl
@[simp] theorem State.recordTrace_fetchPc (s s0 : State) (f : Fetched) : (s.recordTrace f s0).fetchPc = s.fetchPc := rfl
@[simp] theorem State.recordTrace_params (s s0 : State) (f : Fetched) : (s.recordTrace f s0).params = s.params := rfl

@[simp] theorem State.awake_regs (s : State) : (s.awake).regs = s.regs := rfl
@[simp] theorem State.awake_pins (s : State) : (s.awake).pins = { s.pins with readyOut := true } := rfl
@[simp] theorem State.awake_clock (s : State) : (s.awake).clock = s.clock := rfl
@[simp] theorem State.awake_bus (s : State) : (s.awake).bus = s.bus := rfl
@[simp] theorem State.awake_fetchPbr (s : State) : (s.awake).fetchPbr = s.fetchPbr := rfl
@[simp] theorem State.awake_fetchPc (s : State) : (s.awake).fetchPc = s.fetchPc := rfl
@[simp] theorem State.awake_trace (s : State) : (s.awake).trace = s.trace := rfl
@[simp] theorem State.awake_params (s : State) : (s.awake).params = s.params := rfl

@[simp] theorem State.resetForce_regs (s : State) : (s.resetForce).regs = s.regs.resetForce := rfl
@[simp] theorem State.resetForce_clock (s : State) : (s.resetForce).clock = s.clock := rfl
@[simp] theorem State.resetForce_bus (s : State) : (s.resetForce).bus = s.bus := rfl
@[simp] theorem State.resetForce_fetchPbr (s : State) : (s.resetForce).fetchPbr = s.fetchPbr := rfl
@[simp] theorem State.resetForce_fetchPc (s : State) : (s.resetForce).fetchPc = s.fetchPc := rfl
@[simp] theorem State.resetForce_trace (s : State) : (s.resetForce).trace = s.trace := rfl
@[simp] theorem State.resetForce_params (s : State) : (s.resetForce).params = s.params := rfl

/-- Edits of the maps leave the memory and the count of I/O accesses. -/
theorem Bus.edit_keeps (b : Bus) (banks : List (Byte × BankDesc)) (pages : List PageEdit) :
    (b.edit banks pages).mem = b.mem ∧ (b.edit banks pages).ioCount = b.ioCount := by
  unfold Bus.edit
  induction banks generalizing b with
  | nil =>
    induction pages generalizing b with
    | nil => exact ⟨rfl, rfl⟩
    | cons e pages ih =>
      refine (ih (b.editPage e)).imp (fun h => h.trans ?_) fun h => h.trans ?_ <;> (unfold Bus.editPage; split <;> rfl)
  | cons e banks ih => exact ih (b.editBank e)

@[simp] theorem Bus.edit_mem (b : Bus) (banks : List (Byte × BankDesc)) (pages : List PageEdit) :
    (b.edit banks pages).mem = b.mem := (b.edit_keeps banks pages).1

@[simp] theorem Bus.edit_ioCount (b : Bus) (banks : List (Byte × BankDesc)) (pages : List PageEdit) :
    (b.edit banks pages).ioCount = b.ioCount := (b.edit_keeps banks pages).2

@[simp] theorem State.applyIo_mem (s : State) (x : IoAccess) : (s.applyIo x).bus.mem = s.bus.mem := by
  simp only [State.applyIo, Bus.edit_mem]

/-! ## The clock counts cycles (70_reset_and_hazards.md R460) -/

@[simp] theorem Clock.charge_cyclesSpent (c : Clock) (b : Bool) (n : Nat) :
    (c.charge b n).cyclesSpent = c.cyclesSpent + n := rfl

@[simp] theorem Clock.charge_fastStep (c : Clock) (b : Bool) (n : Nat) : (c.charge b n).fastStep = c.fastStep := rfl

@[simp] theorem Clock.charge_slowStep (c : Clock) (b : Bool) (n : Nat) : (c.charge b n).slowStep = c.slowStep := rfl

/-- An instruction that has not yet spent more than its total ends with its total. -/
theorem State.settle_cycles {s s0 : State} {total fetched : Nat} (h0 : s0.clock.cyclesSpent ≤ s.clock.cyclesSpent)
    (h : s.clock.cyclesSpent + fetched ≤ s0.clock.cyclesSpent + total) :
    (s.settle total fetched s0).clock.cyclesSpent + fetched = s0.clock.cyclesSpent + total := by
  simp only [State.settle, State.internal_clock, Clock.charge_cyclesSpent]
  omega

end Sys2Proof.Machine
end

