-- ==== Sys2Proof/Laws/Bus.lean ====
section
/-! SUPPORT. What the two primitives of the bus do, at every address and away from the I/O gate. -/

namespace Sys2Proof.Machine

/-! ## In every state -/

@[simp] theorem State.busRead_regs (s : State) (a : Addr) (k : AccessKind) : (s.busRead a k).2.regs = s.regs := by
  unfold State.busRead; split
  · split <;> rfl
  · rfl
  · rfl

@[simp] theorem State.busRead_mem (s : State) (a : Addr) (k : AccessKind) :
    (s.busRead a k).2.bus.mem = s.bus.mem := by
  unfold State.busRead; split
  · split
    · rfl
    · rw [State.applyIo_mem]; rfl
  · rfl
  · rfl

@[simp] theorem State.busRead_params (s : State) (a : Addr) (k : AccessKind) :
    (s.busRead a k).2.params = s.params := by
  unfold State.busRead; split
  · split <;> rfl
  · rfl
  · rfl

@[simp] theorem State.busRead_trace (s : State) (a : Addr) (k : AccessKind) : (s.busRead a k).2.trace = s.trace := by
  unfold State.busRead; split
  · split <;> rfl
  · rfl
  · rfl

@[simp] theorem State.busRead_fetchPbr (s : State) (a : Addr) (k : AccessKind) :
    (s.busRead a k).2.fetchPbr = s.fetchPbr := by
  unfold State.busRead; split
  · split <;> rfl
  · rfl
  · rfl

@[simp] theorem State.busRead_fetchPc (s : State) (a : Addr) (k : AccessKind) :
    (s.busRead a k).2.fetchPc = s.fetchPc := by
  unfold State.busRead; split
  · split <;> rfl
  · rfl
  · rfl

/-- A read is one cycle (70_reset_and_hazards.md R462). -/
@[simp] theorem State.busRead_cycles (s : State) (a : Addr) (k : AccessKind) :
    (s.busRead a k).2.clock.cyclesSpent = s.clock.cyclesSpent + 1 := by
  unfold State.busRead; split
  · split <;> rfl
  · rfl
  · rfl

@[simp] theorem State.busWrite_regs (s : State) (a : Addr) (k : AccessKind) (v : Byte) :
    (s.busWrite a k v).regs = s.regs := by
  unfold State.busWrite; split <;> rfl

@[simp] theorem State.busWrite_params (s : State) (a : Addr) (k : AccessKind) (v : Byte) :
    (s.busWrite a k v).params = s.params := by
  unfold State.busWrite; split <;> rfl

@[simp] theorem State.busWrite_trace (s : State) (a : Addr) (k : AccessKind) (v : Byte) :
    (s.busWrite a k v).trace = s.trace := by
  unfold State.busWrite; split <;> rfl

@[simp] theorem State.busWrite_fetchPbr (s : State) (a : Addr) (k : AccessKind) (v : Byte) :
    (s.busWrite a k v).fetchPbr = s.fetchPbr := by
  unfold State.busWrite; split <;> rfl

@[simp] theorem State.busWrite_fetchPc (s : State) (a : Addr) (k : AccessKind) (v : Byte) :
    (s.busWrite a k v).fetchPc = s.fetchPc := by
  unfold State.busWrite; split <;> rfl

/-- A write is one cycle (70_reset_and_hazards.md R462). -/
@[simp] theorem State.busWrite_cycles (s : State) (a : Addr) (k : AccessKind) (v : Byte) :
    (s.busWrite a k v).clock.cyclesSpent = s.clock.cyclesSpent + 1 := by
  unfold State.busWrite; split <;> rfl

/-- A write changes the memory as its target says, an I/O page not at all (20_memory.md R76). -/
theorem State.busWrite_mem (s : State) (a : Addr) (k : AccessKind) (v : Byte) :
    (s.busWrite a k v).bus.mem = s.bus.mem.writeTarget (s.resolve .write a) a v := by
  unfold State.busWrite; split
  · rename_i h; rw [State.applyIo_mem, h]; rfl
  · rfl

/-! ## What an access does to the pins and the maps: only the collaborator changes them (20_memory.md R86) -/

/-- The pins an access may have changed: the request lines only. -/
structure Pins.SameMode (p q : Pins) : Prop where
  resbIn : q.resbIn = p.resbIn
  readyOut : q.readyOut = p.readyOut
  enabled : q.enabled = p.enabled
  coarse : q.coarse = p.coarse
  resetHold : q.resetHold = p.resetHold

theorem Pins.SameMode.refl (p : Pins) : p.SameMode p := ⟨rfl, rfl, rfl, rfl, rfl⟩

theorem Pins.SameMode.trans {p q r : Pins} (h : p.SameMode q) (h' : q.SameMode r) : p.SameMode r :=
  ⟨h'.1.trans h.1, h'.2.trans h.2, h'.3.trans h.3, h'.4.trans h.4, h'.5.trans h.5⟩

theorem State.busRead_mode (s : State) (a : Addr) (k : AccessKind) : s.pins.SameMode (s.busRead a k).2.pins := by
  unfold State.busRead; split
  · split <;> exact ⟨rfl, rfl, rfl, rfl, rfl⟩
  · exact Pins.SameMode.refl _
  · exact Pins.SameMode.refl _

theorem State.busWrite_mode (s : State) (a : Addr) (k : AccessKind) (v : Byte) :
    s.pins.SameMode (s.busWrite a k v).pins := by
  unfold State.busWrite; split <;> exact ⟨rfl, rfl, rfl, rfl, rfl⟩

/-! ## Away from the I/O gate -/

/-- Where the map and the parameters are the same, addresses resolve alike. -/
theorem State.resolve_congr {s t : State} (h1 : t.bus.bankMap = s.bus.bankMap) (h2 : t.bus.readPages = s.bus.readPages)
    (h3 : t.bus.writePages = s.bus.writePages) (h4 : t.params = s.params) (dir : Dir) (a : Addr) :
    t.resolve dir a = s.resolve dir a := by
  unfold State.resolve State.bankDesc Bus.pages
  rw [h1, h2, h3, h4]

/-- Where bus and parameters are the same, every byte reads alike. -/
theorem State.peek_congr {s t : State} (hb : t.bus = s.bus) (hp : t.params = s.params) (a : Addr) :
    t.peek a = s.peek a := by
  unfold State.peek
  rw [State.resolve_congr (congrArg _ hb) (congrArg _ hb) (congrArg _ hb) hp, hb]

@[simp] theorem State.datum_congr {s t : State} (hb : t.bus = s.bus) (hp : t.params = s.params) (w : Width) (e : Ea) :
    t.datum w e = s.datum w e := by
  unfold State.datum
  simp only [State.peek_congr hb hp, hp]

/-- `s` with registers, clock and memory replaced: the form every operation's result has away from the
I/O gate. -/
def State.upd (s : State) (r : Regs) (c : Clock) (m : Memory) : State :=
  { s with regs := r, clock := c, bus := { s.bus with mem := m } }

@[simp] theorem State.upd_regs (s : State) (r : Regs) (c : Clock) (m : Memory) : (s.upd r c m).regs = r := rfl

@[simp] theorem State.upd_clock (s : State) (r : Regs) (c : Clock) (m : Memory) : (s.upd r c m).clock = c := rfl

@[simp] theorem State.upd_mem (s : State) (r : Regs) (c : Clock) (m : Memory) : (s.upd r c m).bus.mem = m := rfl

@[simp] theorem State.upd_pins (s : State) (r : Regs) (c : Clock) (m : Memory) : (s.upd r c m).pins = s.pins := rfl

@[simp] theorem State.upd_params (s : State) (r : Regs) (c : Clock) (m : Memory) : (s.upd r c m).params = s.params := rfl

@[simp] theorem State.upd_trace (s : State) (r : Regs) (c : Clock) (m : Memory) : (s.upd r c m).trace = s.trace := rfl

@[simp] theorem State.upd_fetchPbr (s : State) (r : Regs) (c : Clock) (m : Memory) :
    (s.upd r c m).fetchPbr = s.fetchPbr := rfl

@[simp] theorem State.upd_fetchPc (s : State) (r : Regs) (c : Clock) (m : Memory) :
    (s.upd r c m).fetchPc = s.fetchPc := rfl

@[simp] theorem State.upd_upd (s : State) (r r' : Regs) (c c' : Clock) (m m' : Memory) :
    (s.upd r c m).upd r' c' m' = s.upd r' c' m' := rfl

@[simp] theorem State.upd_resolve (s : State) (r : Regs) (c : Clock) (m : Memory) (dir : Dir) (a : Addr) :
    (s.upd r c m).resolve dir a = s.resolve dir a := State.resolve_congr rfl rfl rfl rfl dir a

@[simp] theorem State.upd_mapRegs (s : State) (r : Regs) (c : Clock) (m : Memory) (f : Regs → Regs) :
    (s.upd r c m).mapRegs f = s.upd (f r) c m := rfl

@[simp] theorem State.upd_internal (s : State) (r : Regs) (c : Clock) (m : Memory) (n : Nat) :
    (s.upd r c m).internal n = s.upd r (c.charge false n) m := rfl

/-- A state whose memory is as it was reads alike. -/
@[simp] theorem State.upd_peek (s : State) (r : Regs) (c : Clock) (a : Addr) :
    (s.upd r c s.bus.mem).peek a = s.peek a := State.peek_congr rfl rfl a

@[simp] theorem State.upd_datum (s : State) (r : Regs) (c : Clock) (w : Width) (e : Ea) :
    (s.upd r c s.bus.mem).datum w e = s.datum w e := State.datum_congr rfl rfl w e

/-- The form to evaluate: `decide` on the statement itself would try every address. -/
theorem State.offIo_iff {s : State} {dir : Dir} {as : List Addr} :
    s.OffIo dir as ↔ (as.all fun a => decide (s.resolve dir a ≠ .io)) = true := by
  simp [State.OffIo]

theorem State.OffIo.upd {s : State} {dir : Dir} {as : List Addr} (h : s.OffIo dir as) (r : Regs) (c : Clock) (m : Memory) :
    (s.upd r c m).OffIo dir as := fun a ha => by rw [State.upd_resolve]; exact h a ha

theorem State.OffIo.head {s : State} {dir : Dir} {a : Addr} {as : List Addr} (h : s.OffIo dir (a :: as)) :
    s.resolve dir a ≠ .io := h a List.mem_cons_self

theorem State.OffIo.tail {s : State} {dir : Dir} {a : Addr} {as : List Addr} (h : s.OffIo dir (a :: as)) :
    s.OffIo dir as := fun b hb => h b (List.mem_cons_of_mem a hb)

theorem State.OffIo.left {s : State} {dir : Dir} {as bs : List Addr} (h : s.OffIo dir (as ++ bs)) : s.OffIo dir as :=
  fun a ha => h a (List.mem_append_left bs ha)

theorem State.OffIo.right {s : State} {dir : Dir} {as bs : List Addr} (h : s.OffIo dir (as ++ bs)) : s.OffIo dir bs :=
  fun a ha => h a (List.mem_append_right as ha)

/-- The first of the addresses of a datum is the datum's own. -/
theorem State.OffIo.data {s : State} {dir : Dir} {w : Width} {e : Ea} (h : s.OffIo dir (s.dataAddrs w e)) :
    s.resolve dir e.addr ≠ .io := by
  cases w <;> exact h.head

/-- What a read away from the I/O gate gives, and that it only costs time. -/
theorem State.busRead_offIo {s : State} {a : Addr} (h : s.resolve .read a ≠ .io) (k : AccessKind) :
    ∃ c, s.busRead a k = (s.peek a, s.upd s.regs c s.bus.mem) := by
  unfold State.busRead State.peek
  split
  · exact absurd ‹_› h
  · exact ⟨_, rfl⟩
  · exact ⟨_, rfl⟩

/-- What a write away from the I/O gate does. -/
theorem State.busWrite_offIo {s : State} {a : Addr} (h : s.resolve .write a ≠ .io) (k : AccessKind) (v : Byte) :
    ∃ c, s.busWrite a k v = s.upd s.regs c (s.bus.mem.writeTarget (s.resolve .write a) a v) := by
  unfold State.busWrite
  split
  · exact absurd ‹_› h
  · exact ⟨_, rfl⟩

/-- The flat platform has no I/O page (92_eei_decisions.md D28). -/
theorem State.Flat.resolve {s : State} (h : s.Flat) (dir : Dir) (a : Addr) :
    ∃ st, s.resolve dir a = .mem { store := st, page := highByte (offsetOf a) } false none ∧
      storeBankNumber st = bankOf a ∧ (∀ b, st ≠ .rom b) := by
  have hb : (s.bus.pages dir) = [] := by cases dir; exacts [h.readPages, h.writePages]
  simp only [State.resolve, hb, entryRead, Option.getD_none, State.bankDesc, h.bankMap, h.banks, flatBank]
  split
  · exact ⟨.slow .e0, rfl, by simp_all [storeBankNumber, slowBankNumber], by simp⟩
  · split
    · exact ⟨.slow .e1, rfl, by simp_all [storeBankNumber, slowBankNumber], by simp⟩
    · rw [if_pos (bankOf a).isLt]
      exact ⟨.fast (bankOf a), rfl, rfl, by simp⟩

theorem State.Flat.offIo {s : State} (h : s.Flat) (dir : Dir) (as : List Addr) : s.OffIo dir as := by
  intro a _
  obtain ⟨st, he, -⟩ := h.resolve dir a
  simp [he]

/-! ## The byte a write leaves elsewhere -/

/-- A write to a target leaves the other bytes of storage alone. -/
theorem State.writeTarget_ne (s : State) (m : Memory) (a : Addr) (v : Byte) (l : Loc) (h : ∀ k ∈ s.writeLocs a, l ≠ k) :
    (m.writeTarget (s.resolve .write a) a v).byte l = m.byte l := by
  unfold State.writeLocs at h
  unfold Memory.writeTarget
  split <;> simp_all [Memory.byte_write_ne]

theorem Memory.writeTarget_wf {m : Memory} (hm : m.wf = true) (t : Target) (a : Addr) (v : Byte) :
    (m.writeTarget t a v).wf = true := by
  unfold Memory.writeTarget
  split <;> first | exact hm | exact Memory.write_wf hm | exact Memory.write_wf (Memory.write_wf hm)

@[simp] theorem Memory.writeTarget_rom (m : Memory) (t : Target) (a : Addr) (v : Byte) :
    (m.writeTarget t a v).rom = m.rom := by
  unfold Memory.writeTarget
  split <;> simp

end Sys2Proof.Machine
end

