-- ==== Sys2Proof/Laws/Operands.lean ====
section
/-! SUPPORT. What the addressing modes and the shapes of instructions do away from the I/O gate: each lemma says once the whole result. -/

namespace Sys2Proof.Machine

theorem State.read16_offIo {s : State} {bank : Byte} {same : Bool} {off : Word}
    (h : s.OffIo .read (wordAddrs bank same off)) :
    ∃ c, s.read16 bank same off = (s.word bank same off, s.upd s.regs c s.bus.mem) := by
  obtain ⟨c, h1⟩ := State.busRead_offIo h.head .data
  obtain ⟨c', h2⟩ := State.busRead_offIo (h.upd s.regs c s.bus.mem).tail.head .data
  exact ⟨c', by simp only [State.read16, h1, h2, State.word, State.upd_peek, State.upd_upd, State.upd_regs,
    State.upd_mem]⟩

theorem State.read24_offIo {s : State} {off : Word} (h : s.OffIo .read (bytesAddrs 0x00 off 3)) :
    ∃ c, s.read24Bank0 off = (s.long off, s.upd s.regs c s.bus.mem) := by
  have e : off + 2 = off + 1 + 1 := by rw [BitVec.add_assoc]; rfl
  obtain ⟨c, h1⟩ := State.busRead_offIo h.head .data
  obtain ⟨c', h2⟩ := State.busRead_offIo (h.upd s.regs c s.bus.mem).tail.head .data
  obtain ⟨c'', h3⟩ := State.busRead_offIo (h.upd s.regs c' s.bus.mem).tail.tail.head .data
  refine ⟨c'', ?_⟩
  simp only [State.upd_upd, State.upd_regs, State.upd_mem, State.upd_peek] at h2 h3
  simp only [State.read24Bank0, e, h1, h2, h3, State.long, State.word, nextOffset, Bool.false_eq_true, if_false]

/-- Forming an effective address only takes time. -/
theorem State.effective_offIo {s : State} {md : Mode} (h : s.OffIo .read (s.pointerAddrs md)) :
    ∃ c, (s.effective md).2 = s.upd s.regs c s.bus.mem := by
  cases md <;> simp only [State.effective, State.read16DpPtr, State.read16Bank0]
  case dpIndLong => obtain ⟨c, e⟩ := State.read24_offIo h; exact ⟨c, by rw [e]⟩
  case dpIndLongY => obtain ⟨c, e⟩ := State.read24_offIo h; exact ⟨c, by rw [e]⟩
  case dpInd => obtain ⟨c, e⟩ := State.read16_offIo h; exact ⟨c, by rw [e]⟩
  case dpXInd => obtain ⟨c, e⟩ := State.read16_offIo h; exact ⟨c, by rw [e]⟩
  case dpIndY => obtain ⟨c, e⟩ := State.read16_offIo h; exact ⟨c, by rw [e]⟩
  case srIndY => obtain ⟨c, e⟩ := State.read16_offIo h; exact ⟨c, by rw [e]⟩
  all_goals exact ⟨s.clock, rfl⟩

theorem State.readData_offIo {s : State} {w : Width} {e : Ea} (h : s.OffIo .read (s.dataAddrs w e)) :
    ∃ c, s.readData w e = (s.datum w e, s.upd s.regs c s.bus.mem) := by
  obtain ⟨c, h1⟩ := State.busRead_offIo h.data .data
  cases w
  · exact ⟨c, by simp only [State.readData, h1, State.datum]⟩
  · obtain ⟨c', h2⟩ := State.busRead_offIo (h.upd s.regs c s.bus.mem).tail.head .data
    exact ⟨c', by simp only [State.readData, h1, h2, State.datum, State.upd_peek, State.upd_upd, State.upd_regs,
      State.upd_mem]⟩

/-- An instruction that reads its operand: the datum, and the registers it makes. -/
theorem State.readOperand_offIo {s : State} {md : Mode} {w : Width} (h : s.OffIo .read (s.operandAddrs w md)) (n : Nat)
    (f : Word → Regs → Regs) :
    ∃ c, s.readOperand md w n f = s.upd (f (s.datum w (s.effective md).1) s.regs) c s.bus.mem := by
  obtain ⟨c, h1⟩ := State.effective_offIo h.left
  obtain ⟨c', h2⟩ := State.readData_offIo (s := s.upd s.regs c s.bus.mem) (h.right.upd s.regs c s.bus.mem)
  simp only [State.readOperand, h1, h2, State.settle, State.upd_upd, State.upd_regs, State.upd_mem, State.upd_mapRegs,
    State.upd_internal, State.upd_datum]
  exact ⟨_, rfl⟩

/-- The bytes written to memory, in order, each delivered where `s` resolves it. -/
def State.storeCells (s : State) (cells : List (Addr × Byte)) : Memory :=
  cells.foldl (fun m c => m.writeTarget (s.resolve .write c.1) c.1 c.2) s.bus.mem

@[simp] theorem State.upd_storeCells (s : State) (r : Regs) (c : Clock) (cells : List (Addr × Byte)) :
    (s.upd r c s.bus.mem).storeCells cells = s.storeCells cells := by
  simp only [State.storeCells, State.upd_resolve, State.upd_mem]

theorem State.writeData_offIo {s : State} {w : Width} {e : Ea} (h : s.OffIo .write (s.dataAddrs w e)) (v : Word) :
    ∃ c, s.writeData w e v = s.upd s.regs c (s.storeCells (s.cellsUp w e v)) := by
  obtain ⟨c, h1⟩ := State.busWrite_offIo h.data .data (lowByte v)
  cases w
  · exact ⟨c, by simp only [State.writeData, h1, State.storeCells, State.cellsUp, List.foldl]⟩
  · obtain ⟨c', h2⟩ := State.busWrite_offIo (h.upd s.regs c (s.bus.mem.writeTarget (s.resolve .write e.addr) e.addr
      (lowByte v))).tail.head .data (highByte v)
    exact ⟨c', by simp only [State.writeData, h1, h2, State.storeCells, State.cellsUp, List.foldl, State.upd_upd,
      State.upd_regs, State.upd_mem, State.upd_resolve]⟩

theorem State.writeBack_offIo {s : State} {w : Width} {e : Ea} (h : s.OffIo .write (s.dataAddrs w e)) (v : Word) :
    ∃ c, s.writeBack w e v = s.upd s.regs c (s.storeCells (s.cellsDown w e v)) := by
  cases w
  · obtain ⟨c, h1⟩ := State.busWrite_offIo h.data .data (lowByte v)
    exact ⟨c, by simp only [State.writeBack, h1, State.storeCells, State.cellsDown, List.foldl]⟩
  · obtain ⟨c, h1⟩ := State.busWrite_offIo h.tail.head .data (highByte v)
    obtain ⟨c', h2⟩ := State.busWrite_offIo (h.upd s.regs c (s.bus.mem.writeTarget
      (s.resolve .write (e.next s.params.data16CrossesBank)) (e.next s.params.data16CrossesBank) (highByte v))).head
      .data (lowByte v)
    exact ⟨c', by simp only [State.writeBack, h1, h2, State.storeCells, State.cellsDown, List.foldl, State.upd_upd,
      State.upd_regs, State.upd_mem, State.upd_resolve]⟩

/-- An instruction that stores: the bytes stored. -/
theorem State.store_offIo {s : State} {md : Mode} {w : Width} (hp : s.OffIo .read (s.pointerAddrs md))
    (h : s.OffIo .write (s.dataAddrs w (s.effective md).1)) (v : Word) :
    ∃ c, s.store md w v = s.upd s.regs c (s.storeCells (s.cellsUp w (s.effective md).1 v)) := by
  obtain ⟨c, h1⟩ := State.effective_offIo hp
  obtain ⟨c', h2⟩ := State.writeData_offIo (s := s.upd s.regs c s.bus.mem) (h.upd s.regs c s.bus.mem) v
  simp only [State.store, h1, h2, State.settle, State.upd_upd, State.upd_regs, State.upd_internal, State.upd_storeCells]
  exact ⟨_, rfl⟩

/-- A read-modify-write: the result of the operation on the datum is stored, P is the operation's. -/
theorem State.modify_offIo {s : State} {md : Mode} (hr : s.OffIo .read (s.operandAddrs s.regs.p.widthM md))
    (hw : s.OffIo .write (s.dataAddrs s.regs.p.widthM (s.effective md).1)) (op : RmwOp) :
    ∃ c, s.modify md op =
      s.upd
        { s.regs with
          p := (runOp op s.regs.p.widthM s.regs.a (s.datum s.regs.p.widthM (s.effective md).1) s.regs.p).2 } c
        (s.storeCells (s.cellsDown s.regs.p.widthM (s.effective md).1
          (runOp op s.regs.p.widthM s.regs.a (s.datum s.regs.p.widthM (s.effective md).1) s.regs.p).1)) := by
  obtain ⟨c, h1⟩ := State.effective_offIo hr.left
  obtain ⟨c', h2⟩ := State.readData_offIo (s := s.upd s.regs c s.bus.mem) (hr.right.upd s.regs c s.bus.mem)
  simp only [State.upd_upd, State.upd_regs, State.upd_mem, State.upd_datum] at h2
  obtain ⟨c'', h4⟩ := State.writeBack_offIo (s := s.upd s.regs (c'.charge false 1) s.bus.mem)
    (hw.upd s.regs (c'.charge false 1) s.bus.mem) (runOp op s.regs.p.widthM s.regs.a (s.datum s.regs.p.widthM (s.effective md).1) s.regs.p).1
  simp only [State.modify, h1, h2, h4, State.settle, State.upd_upd, State.upd_regs, State.upd_internal,
    State.upd_storeCells, State.upd_mapRegs]
  exact ⟨_, rfl⟩

theorem State.implied_upd (s : State) (n : Nat) (f : Regs → Regs) :
    ∃ c, s.implied n f = s.upd (f s.regs) c s.bus.mem := ⟨_, rfl⟩

theorem State.immediate_upd (s : State) (imm : Word) (w : Width) (n : Nat) (f : Word → Regs → Regs) :
    ∃ c, s.immediate imm w n f = s.upd (f imm s.regs) c s.bus.mem := ⟨_, rfl⟩

/-! ## From results to claims -/

/-- A result that differs in registers and clock only. -/
theorem OnlyRegs.upd (s : State) (r : Regs) (c : Clock) : OnlyRegs s (s.upd r c s.bus.mem) :=
  ⟨rfl, rfl, rfl, rfl, rfl, rfl, fun a => State.upd_peek s r c a⟩

theorem Becomes.of_upd {i : Instr} {s u : State} {r : Regs} (h : ∃ c, u = s.upd r c s.bus.mem)
    (hi : exec i s = .next u) : Becomes i s r := by
  obtain ⟨c, rfl⟩ := h
  exact ⟨_, hi, rfl, OnlyRegs.upd s r c⟩

/-- What the bytes of storage are after a list of cells is written. -/
theorem State.storeCells_other (s : State) (cells : List (Addr × Byte)) (l : Loc)
    (h : ∀ c ∈ cells, ∀ k ∈ s.writeLocs c.1, l ≠ k) : (s.storeCells cells).byte l = s.bus.mem.byte l := by
  unfold State.storeCells
  generalize s.bus.mem = m
  induction cells generalizing m with
  | nil => rfl
  | cons c cells ih =>
    rw [List.foldl_cons, ih (fun c' hc' => h c' (List.mem_cons_of_mem _ hc'))]
    exact State.writeTarget_ne s m c.1 c.2 l (h c List.mem_cons_self)

/-- A result that differs in registers, clock and the bytes written. -/
theorem OnlyStores.upd (s : State) (r : Regs) (c : Clock) (cells : List (Addr × Byte)) :
    OnlyStores s (s.upd r c (s.storeCells cells)) cells := by
  refine ⟨rfl, rfl, rfl, rfl, rfl, rfl, rfl, rfl, rfl, rfl, ?_⟩
  intro a ha
  unfold State.peek
  rw [State.upd_resolve]
  unfold State.readLoc at ha
  split
  · rfl
  · rfl
  · rename_i pg ro sh e
    rw [e] at ha
    refine State.storeCells_other s cells _ fun c hc k hk => ?_
    have := ha c hc k hk
    simpa using this

theorem Stores.of_upd {i : Instr} {s u : State} {r : Regs} {cells : List (Addr × Byte)}
    (h : ∃ c, u = s.upd r c (s.storeCells cells)) (hi : exec i s = .next u) : Stores i s r cells := by
  obtain ⟨c, rfl⟩ := h
  exact ⟨_, hi, rfl, OnlyStores.upd s r c cells⟩

end Sys2Proof.Machine
end

