-- ==== Sys2Proof/Laws/Stack.lean ====
section
/-! SUPPORT. What pushes and pulls do away from the I/O gate. -/

namespace Sys2Proof.Machine

theorem State.storeCells_append (s : State) (r : Regs) (c : Clock) (l1 l2 : List (Addr × Byte)) :
    (s.upd r c (s.storeCells l1)).storeCells l2 = s.storeCells (l1 ++ l2) := by
  simp only [State.storeCells, State.upd_resolve, State.upd_mem, List.foldl_append]

@[simp] theorem State.upd_quirk (s : State) (r : Regs) (c : Clock) (m : Memory) (u : StackUser) :
    (s.upd r c m).quirk u = s.quirk u := rfl

theorem State.push8_offIo {s : State} (h : s.resolve .write (joinAddr 0x00 s.regs.s) ≠ .io) (full : Bool) (b : Byte) :
    ∃ c, s.push8 full b =
      s.upd { s.regs with s := stackDown (s.regs.e && !full) s.regs.s } c
        (s.storeCells [(joinAddr 0x00 s.regs.s, b)]) := by
  obtain ⟨c, h1⟩ := State.busWrite_offIo h .stack b
  exact ⟨c, by simp only [State.push8, h1]; rfl⟩

/-- Bytes pushed one after the other. -/
def State.pushAll (full : Bool) (s : State) (bs : List Byte) : State := bs.foldl (fun s b => s.push8 full b) s

theorem State.pushAll_offIo {s : State} {full : Bool} {bs : List Byte}
    (h : s.OffIo .write ((pushedCells (s.regs.e && !full) s.regs.s bs).map Prod.fst)) :
    ∃ c, s.pushAll full bs =
      s.upd { s.regs with s := stackMove (stackDown (s.regs.e && !full)) bs.length s.regs.s } c
        (s.storeCells (pushedCells (s.regs.e && !full) s.regs.s bs)) := by
  induction bs generalizing s with
  | nil => exact ⟨s.clock, rfl⟩
  | cons b bs ih =>
    obtain ⟨c, h1⟩ := State.push8_offIo h.head full b
    obtain ⟨c', h2⟩ := ih (s := s.upd { s.regs with s := stackDown (s.regs.e && !full) s.regs.s } c
      (s.storeCells [(joinAddr 0x00 s.regs.s, b)])) (h.tail.upd _ _ _)
    refine ⟨c', ?_⟩
    simp only [State.pushAll, List.foldl_cons, h1] at h2 ⊢
    rw [h2, State.storeCells_append]
    rfl

theorem State.pushAt_offIo {s : State} {full : Bool} {w : Width} {v : Word}
    (h : s.OffIo .write ((pushedCells (s.regs.e && !full) s.regs.s (w.pushBytes v)).map Prod.fst)) :
    ∃ c, s.pushAt full w v =
      s.upd { s.regs with s := stackMove (stackDown (s.regs.e && !full)) w.bytes s.regs.s } c
        (s.storeCells (pushedCells (s.regs.e && !full) s.regs.s (w.pushBytes v))) := by
  cases w <;> exact State.pushAll_offIo h

theorem State.pull8_offIo {s : State} {full : Bool} (h : s.OffIo .read (pulledAddrs (s.regs.e && !full) s.regs.s 1)) :
    ∃ c, s.pull8 full =
      (s.peek (joinAddr 0x00 (stackUp (s.regs.e && !full) s.regs.s)),
        s.upd { s.regs with s := stackUp (s.regs.e && !full) s.regs.s } c s.bus.mem) := by
  obtain ⟨c, h1⟩ := State.busRead_offIo
    (h.upd { s.regs with s := stackUp (s.regs.e && !full) s.regs.s } s.clock s.bus.mem).head .stack
  rw [State.upd_peek] at h1
  exact ⟨c, h1⟩

theorem State.pull16_offIo {s : State} {full : Bool} (h : s.OffIo .read (pulledAddrs (s.regs.e && !full) s.regs.s 2)) :
    ∃ c, s.pull16 full =
      (joinWord (s.peek (joinAddr 0x00 (stackMove (stackUp (s.regs.e && !full)) 2 s.regs.s)))
          (s.peek (joinAddr 0x00 (stackMove (stackUp (s.regs.e && !full)) 1 s.regs.s))),
        s.upd { s.regs with s := stackMove (stackUp (s.regs.e && !full)) 2 s.regs.s } c s.bus.mem) := by
  obtain ⟨c, h1⟩ := State.pull8_offIo (s := s) (full := full) fun a ha => h a (by simp_all [pulledAddrs])
  obtain ⟨c', h2⟩ := State.pull8_offIo
    (s := s.upd { s.regs with s := stackUp (s.regs.e && !full) s.regs.s } c s.bus.mem) (full := full) (h.tail.upd _ _ _)
  refine ⟨c', ?_⟩
  simp only [State.pull16, h1, h2, State.upd_peek, State.upd_upd, State.upd_regs, State.upd_mem, stackMove]

theorem State.pulledAt_eq (s : State) (u : StackUser) (w : Width) :
    s.pulledAt u w =
      match w with
      | .w8 => zeroExt (s.pulledByte u 1)
      | .w16 => joinWord (s.pulledByte u 2) (s.pulledByte u 1) := by cases w <;> rfl

theorem State.pullAt_offIo {s : State} {u : StackUser} {w : Width} (h : s.OffIo .read (s.pullAddrs u w.bytes)) :
    ∃ c, s.pullAt (s.quirk u) w =
      (s.pulledAt u w,
        s.upd { s.regs with s := stackMove (stackUp (s.confined u)) w.bytes s.regs.s } c s.bus.mem) := by
  cases w
  · obtain ⟨c, h1⟩ := State.pull8_offIo h
    exact ⟨c, by simp only [State.pullAt, h1]; rfl⟩
  · exact State.pull16_offIo h

@[simp] theorem State.upd_endQuirk (s : State) (r : Regs) (c : Clock) (m : Memory) (full : Bool) :
    (s.upd r c m).endQuirk full =
      s.upd { r with s := if full && r.e then joinWord 0x01 (lowByte r.s) else r.s } c m := by
  obtain ⟨a, x, y, sp, d, pbr, dbr, pc, p, e⟩ := r
  cases full <;> cases e <;> rfl

/-- The two bytes of a vector. -/
theorem State.pullVector_offIo {s : State} {v : Word} (h : s.OffIo .read (wordAddrs 0x00 false v)) :
    ∃ c, s.pullVector v = (s.word 0x00 false v, s.upd s.regs c s.bus.mem) := by
  obtain ⟨c, h1⟩ := State.busRead_offIo h.head .vectorPull
  obtain ⟨c', h2⟩ := State.busRead_offIo (h.upd s.regs c s.bus.mem).tail.head .vectorPull
  refine ⟨c', ?_⟩
  simp only [State.upd_upd, State.upd_regs, State.upd_mem, State.upd_peek, nextOffset, Bool.false_eq_true, if_false] at h2
  simp only [State.pullVector, h1, h2, State.word, nextOffset, Bool.false_eq_true, if_false]

end Sys2Proof.Machine
end

