-- ==== Sys2Proof/Laws/Exceptions.lean ====
section
/-! SUPPORT. What taking an exception and returning from one do away from the I/O gate. -/

namespace Sys2Proof.Machine

theorem State.pushFrame_offIo {s : State} {kind : EntryKind} (h : s.OffIo .write ((s.frameCells kind).map Prod.fst)) :
    ∃ c, s.pushFrame kind =
      s.upd
        { s.regs with s := stackMove (stackDown (s.entryConfined kind)) (s.frameBytes kind).length s.regs.s } c
        (s.storeCells (s.frameCells kind)) := by
  have e : s.pushFrame kind = s.pushAll (s.entryQuirk kind) (s.frameBytes kind) := by
    unfold State.pushFrame State.frameBytes
    cases s.regs.e <;> rfl
  rw [e]
  exact State.pushAll_offIo h

@[simp] theorem State.upd_entryQuirk (s : State) (r : Regs) (c : Clock) (m : Memory) (kind : EntryKind) :
    (s.upd r c m).entryQuirk kind = s.entryQuirk kind := by cases kind <;> rfl

theorem State.loadVector_offIo {s : State} {v : Word} (h : s.OffIo .read (wordAddrs 0x00 false v)) :
    ∃ c, s.loadVector v = s.upd { s.regs with pc := s.word 0x00 false v } c s.bus.mem := by
  obtain ⟨c, h1⟩ := State.pullVector_offIo h
  exact ⟨c, by simp only [State.loadVector, h1, State.upd_mapRegs]⟩

/-- An entry: the frame is stored, PC comes from the vector as memory then stands. -/
theorem State.interruptEntry_offIo {s : State} {kind : EntryKind}
    (hw : s.OffIo .write ((s.frameCells kind).map Prod.fst)) (hr : s.OffIo .read (s.vectorAddrs kind)) :
    ∃ c, s.interruptEntry kind =
      s.upd
        { s.regs with
          s := s.frameS kind
          p := { s.regs.p with i := true, d := false }
          pbr := 0x00
          pc := (s.upd s.regs s.clock (s.storeCells (s.frameCells kind))).word 0x00 false
            (vectorOffset s.regs.e kind) } c
        (s.storeCells (s.frameCells kind)) := by
  obtain ⟨c, h1⟩ := State.pushFrame_offIo hw
  obtain ⟨c', h2⟩ := State.loadVector_offIo
    (hr.upd ({ s.regs with
      s := stackMove (stackDown (s.entryConfined kind)) (s.frameBytes kind).length s.regs.s } : Regs).enter c
      (s.storeCells (s.frameCells kind)))
  refine ⟨c', ?_⟩
  simp only [State.interruptEntry, h1, State.upd_mapRegs, h2]
  simp only [State.upd_upd, State.upd_endQuirk, State.upd_regs, State.upd_mem, Regs.enter]
  congr 2
  simp only [State.frameS, Bool.and_comm]

@[simp] theorem Regs.normalize_e (r : Regs) : r.normalize.e = r.e := by
  obtain ⟨a, x, y, sp, d, pbr, dbr, pc, ⟨pc', pz, pi, pd, px, pm, pv, pn⟩, e⟩ := r
  cases e <;> cases px <;> rfl

theorem State.returnStatus_offIo {s : State} {full : Bool}
    (h : s.OffIo .read (pulledAddrs (s.regs.e && !full) s.regs.s 1)) :
    ∃ c, s.returnStatus full =
      s.upd
        ({ s.regs with
          s := stackUp (s.regs.e && !full) s.regs.s
          p := Status.ofByte (s.peek (joinAddr 0x00 (stackUp (s.regs.e && !full) s.regs.s))) } : Regs).normalize
        c s.bus.mem := by
  obtain ⟨c, h1⟩ := State.pull8_offIo h
  exact ⟨c, by simp only [State.returnStatus, h1, State.upd_mapRegs]⟩

theorem State.returnPc_offIo {s : State} {full : Bool}
    (h : s.OffIo .read (pulledAddrs (s.regs.e && !full) s.regs.s 2)) :
    ∃ c, s.returnPc full =
      s.upd
        { s.regs with
          s := stackMove (stackUp (s.regs.e && !full)) 2 s.regs.s
          pc := joinWord (s.peek (joinAddr 0x00 (stackMove (stackUp (s.regs.e && !full)) 2 s.regs.s)))
            (s.peek (joinAddr 0x00 (stackMove (stackUp (s.regs.e && !full)) 1 s.regs.s))) }
        c s.bus.mem := by
  obtain ⟨c, h1⟩ := State.pull16_offIo h
  exact ⟨c, by simp only [State.returnPc, h1, State.upd_mapRegs]⟩

theorem State.returnBank_offIo {s : State} (full : Bool)
    (h : s.regs.e = false → s.resolve .read (joinAddr 0x00 (s.regs.s + 1)) ≠ .io) :
    ∃ c, s.returnBank full =
      s.upd
        (if s.regs.e then s.regs
        else
          { s.regs with
            s := s.regs.s + 1
            pbr := s.peek (joinAddr 0x00 (s.regs.s + 1)) })
        c s.bus.mem := by
  cases he : s.regs.e
  · obtain ⟨c, h1⟩ := State.pull8_offIo (s := s) (full := full) (by
      rw [he]
      intro a ha
      rw [pulledAddrs, pulledAddrs, List.mem_singleton] at ha
      exact ha ▸ h he)
    rw [he] at h1
    exact ⟨c, by simp only [State.returnBank, he, h1, State.upd_mapRegs]; rfl⟩
  · exact ⟨s.clock, by simp only [State.returnBank, he]; rfl⟩

/-- The registers after a return, by its stages. -/
def State.returned (s : State) (full : Bool) : Regs :=
  let up := stackUp (s.regs.e && !full)
  let r := ({ s.regs with
    s := up s.regs.s, p := Status.ofByte (s.peek (joinAddr 0x00 (up s.regs.s))) } : Regs).normalize
  let r := { r with
    s := stackMove up 2 r.s
    pc := joinWord (s.peek (joinAddr 0x00 (stackMove up 2 r.s))) (s.peek (joinAddr 0x00 (stackMove up 1 r.s))) }
  let r := if s.regs.e then r else { r with s := r.s + 1, pbr := s.peek (joinAddr 0x00 (r.s + 1)) }
  { r with s := if full && s.regs.e then joinWord 0x01 (lowByte r.s) else r.s }

theorem Regs.normalize_s (r : Regs) : r.normalize.s = if r.e then joinWord 0x01 (lowByte r.s) else r.s := by
  obtain ⟨a, x, y, sp, d, pbr, dbr, pc, ⟨pc', pz, pi, pd, px, pm, pv, pn⟩, e⟩ := r
  cases e <;> cases px <;> rfl

/-- A return only moves registers. -/
theorem State.interruptReturn_offIo {s : State} {full : Bool} (h : s.OffIo .read (s.returnAddrs full)) :
    ∃ c, s.interruptReturn full = s.upd (s.returned full) c s.bus.mem := by
  obtain ⟨c1, h1⟩ := State.returnStatus_offIo (s := s) (full := full) fun a ha => h a (by
    simp only [pulledAddrs, List.mem_singleton] at ha
    simp [State.returnAddrs, ha])
  obtain ⟨c2, h2⟩ := State.returnPc_offIo (s := s.upd ({ s.regs with
      s := stackUp (s.regs.e && !full) s.regs.s
      p := Status.ofByte (s.peek (joinAddr 0x00 (stackUp (s.regs.e && !full) s.regs.s))) } : Regs).normalize c1
      s.bus.mem) (full := full) fun a ha => by
        rw [State.upd_resolve]
        refine h.tail a ?_
        simp only [State.upd_regs, Regs.normalize_e, Regs.normalize_s] at ha
        cases he : s.regs.e <;> simp_all [pulledAddrs]
        tauto
  simp only [State.upd_upd, State.upd_regs, State.upd_mem, State.upd_peek, Regs.normalize_e] at h2
  obtain ⟨c3, h3⟩ := State.returnBank_offIo (s := (s.returnStatus full).returnPc full) full (by
    rw [h1, h2]
    simp only [State.upd_regs, State.upd_resolve, Regs.normalize_s]
    intro he
    refine h.tail _ ?_
    simp [he, pulledAddrs, stackUp, stackMove])
  refine ⟨c3, ?_⟩
  simp only [State.interruptReturn, h3]
  simp only [h1, h2, State.upd_upd, State.upd_regs, State.upd_mem, State.upd_peek, Regs.normalize_e, State.upd_endQuirk,
    State.returned]
  congr 1
  cases s.regs.e <;> simp

end Sys2Proof.Machine
end

