-- ==== Sys2Proof/Laws/Fetch.lean ====
section
/-! SUPPORT. What the fetch of an instruction does, in every state and away from the I/O gate. -/

namespace Sys2Proof.Machine

/-- One byte, then `n` more. -/
theorem pc_next (pc : Word) (n : Nat) : pc + 1 + BitVec.ofNat 16 n = pc + BitVec.ofNat 16 (n + 1) := by
  rw [BitVec.add_assoc]
  congr 1
  rw [Nat.add_comm n 1, BitVec.ofNat_add]; rfl

/-! ## In every state -/

@[simp] theorem State.fetchByte_regs (s : State) (k : AccessKind) :
    (s.fetchByte k).2.regs = { s.regs with pc := s.regs.pc + 1 } := by
  simp only [State.fetchByte, State.mapRegs_regs, State.busRead_regs]

@[simp] theorem State.fetchByte_mem (s : State) (k : AccessKind) : (s.fetchByte k).2.bus.mem = s.bus.mem := by
  simp only [State.fetchByte, State.mapRegs_bus, State.busRead_mem]

@[simp] theorem State.fetchByte_params (s : State) (k : AccessKind) : (s.fetchByte k).2.params = s.params := by
  simp only [State.fetchByte, State.mapRegs_params, State.busRead_params]

@[simp] theorem State.fetchByte_cycles (s : State) (k : AccessKind) :
    (s.fetchByte k).2.clock.cyclesSpent = s.clock.cyclesSpent + 1 := by
  simp only [State.fetchByte, State.mapRegs_clock, State.busRead_cycles]

theorem State.fetchOperands_length (s : State) (n : Nat) : (s.fetchOperands n).1.length = n := by
  induction n generalizing s with
  | zero => rfl
  | succ n ih => simp only [State.fetchOperands, List.length_cons, ih]

theorem State.fetchOperands_regs (s : State) (n : Nat) :
    (s.fetchOperands n).2.regs = { s.regs with pc := s.regs.pc + BitVec.ofNat 16 n } := by
  induction n generalizing s with
  | zero => simp [State.fetchOperands]
  | succ n ih =>
    simp only [State.fetchOperands, ih, State.fetchByte_regs, pc_next]

theorem State.fetchOperands_mem (s : State) (n : Nat) : (s.fetchOperands n).2.bus.mem = s.bus.mem := by
  induction n generalizing s with
  | zero => rfl
  | succ n ih => simp only [State.fetchOperands, ih, State.fetchByte_mem]

theorem State.fetchOperands_params (s : State) (n : Nat) : (s.fetchOperands n).2.params = s.params := by
  induction n generalizing s with
  | zero => rfl
  | succ n ih => simp only [State.fetchOperands, ih, State.fetchByte_params]

theorem State.fetchOperands_cycles (s : State) (n : Nat) :
    (s.fetchOperands n).2.clock.cyclesSpent = s.clock.cyclesSpent + n := by
  induction n generalizing s with
  | zero => rfl
  | succ n ih => simp only [State.fetchOperands, ih, State.fetchByte_cycles]; omega

/-- A fetched instruction's operand bytes are as many as its format has. -/
theorem State.fetchInstr_length (s : State) :
    s.fetchInstr.operands.length = (opcodeShape s.fetchInstr.opcode).operandBytes s.regs.p.m s.regs.p.x :=
  State.fetchOperands_length _ _

/-- A fetch moves PC past the instruction and changes no other register. -/
theorem State.fetchInstr_regs (s : State) :
    s.fetchInstr.state.regs = { s.regs with pc := s.regs.pc + BitVec.ofNat 16 (s.fetchInstr.operands.length + 1) } := by
  rw [State.fetchInstr_length]
  simp only [State.fetchInstr, State.fetchOperands_regs, State.fetchByte_regs, pc_next]

theorem State.fetchInstr_mem (s : State) : s.fetchInstr.state.bus.mem = s.bus.mem := by
  simp only [State.fetchInstr, State.fetchOperands_mem, State.fetchByte_mem]

theorem State.fetchInstr_params (s : State) : s.fetchInstr.state.params = s.params := by
  simp only [State.fetchInstr, State.fetchOperands_params, State.fetchByte_params]

/-- Every byte fetched is one cycle. -/
theorem State.fetchInstr_cycles (s : State) :
    s.fetchInstr.state.clock.cyclesSpent = s.clock.cyclesSpent + (s.fetchInstr.operands.length + 1) := by
  rw [State.fetchInstr_length]
  simp only [State.fetchInstr, State.fetchOperands_cycles, State.fetchByte_cycles]
  omega

/-! ## Away from the I/O gate -/

theorem State.upd_peekBytes (s : State) (r : Regs) (c : Clock) (bank : Byte) (off : Word) (n : Nat) :
    (s.upd r c s.bus.mem).peekBytes bank off n = s.peekBytes bank off n := by
  induction n generalizing off with
  | zero => rfl
  | succ n ih => simp only [State.peekBytes, ih, State.upd_peek]

theorem State.fetchByte_offIo {s : State} (h : s.resolve .read (joinAddr s.regs.pbr s.regs.pc) ≠ .io) (k : AccessKind) :
    ∃ c, s.fetchByte k =
      (s.peek (joinAddr s.regs.pbr s.regs.pc), s.upd { s.regs with pc := s.regs.pc + 1 } c s.bus.mem) := by
  obtain ⟨c, h1⟩ := State.busRead_offIo h k
  exact ⟨c, by simp only [State.fetchByte, h1, State.upd_mapRegs]⟩

theorem State.fetchOperands_offIo {s : State} {n : Nat} (h : s.OffIo .read (bytesAddrs s.regs.pbr s.regs.pc n)) :
    ∃ c, s.fetchOperands n =
      (s.peekBytes s.regs.pbr s.regs.pc n, s.upd { s.regs with pc := s.regs.pc + BitVec.ofNat 16 n } c s.bus.mem) := by
  induction n generalizing s with
  | zero => exact ⟨s.clock, by simp [State.fetchOperands, State.peekBytes]; rfl⟩
  | succ n ih =>
    obtain ⟨c, h1⟩ := State.fetchByte_offIo h.head .data
    obtain ⟨c', h2⟩ := ih (s := s.upd { s.regs with pc := s.regs.pc + 1 } c s.bus.mem) (h.tail.upd _ _ _)
    refine ⟨c', ?_⟩
    simp only [State.upd_regs, State.upd_upd, State.upd_mem, State.upd_peekBytes] at h2
    simp only [State.fetchOperands, h1, h2, State.peekBytes, pc_next]

/-- The opcode byte, away from the I/O gate. -/
theorem State.fetchInstr_opcode {s : State} (h : s.resolve .read (joinAddr s.regs.pbr s.regs.pc) ≠ .io) :
    s.fetchInstr.opcode = s.peek (joinAddr s.regs.pbr s.regs.pc) := by
  obtain ⟨c, h1⟩ := State.fetchByte_offIo (s := { s with fetchPbr := s.regs.pbr, fetchPc := s.regs.pc })
    h .opcodeFetch
  simp only [State.fetchInstr, h1]
  exact State.peek_congr rfl rfl _

theorem State.fetchInstr_offIo {s : State}
    (h : s.OffIo .read (bytesAddrs s.regs.pbr s.regs.pc (s.fetchInstr.operands.length + 1))) :
    s.fetchInstr.opcode = s.peek (joinAddr s.regs.pbr s.regs.pc) ∧
      s.fetchInstr.operands = s.peekBytes s.regs.pbr (s.regs.pc + 1) s.fetchInstr.operands.length ∧
      s.fetchInstr.state = s.afterFetch (s.fetchInstr.operands.length + 1) s.fetchInstr.state.clock := by
  have ho := State.fetchInstr_opcode h.head
  rw [State.fetchInstr_length, ho] at h ⊢
  have h0 : State.OffIo { s with fetchPbr := s.regs.pbr, fetchPc := s.regs.pc } .read
      (bytesAddrs s.regs.pbr s.regs.pc
        ((opcodeShape (s.peek (joinAddr s.regs.pbr s.regs.pc))).operandBytes s.regs.p.m s.regs.p.x + 1)) :=
    h
  obtain ⟨c, h1⟩ := State.fetchByte_offIo h0.head .opcodeFetch
  obtain ⟨c', h2⟩ := State.fetchOperands_offIo
    (s := State.upd { s with fetchPbr := s.regs.pbr, fetchPc := s.regs.pc } { s.regs with pc := s.regs.pc + 1 } c s.bus.mem)
    (h0.tail.upd _ _ _)
  have h3 : ∀ a, State.peek { s with fetchPbr := s.regs.pbr, fetchPc := s.regs.pc } a = s.peek a := fun a =>
    State.peek_congr rfl rfl a
  have h4 : ∀ b o n, State.peekBytes { s with fetchPbr := s.regs.pbr, fetchPc := s.regs.pc } b o n =
      s.peekBytes b o n := by
    intro b o n
    induction n generalizing o with
    | zero => rfl
    | succ n ih => simp only [State.peekBytes, ih, h3]
  have h5 := State.upd_peekBytes { s with fetchPbr := s.regs.pbr, fetchPc := s.regs.pc }
    { s.regs with pc := s.regs.pc + 1 } c
  simp only [State.upd_regs, State.upd_upd, State.upd_mem] at h2
  rw [h5, h4] at h2
  simp only [h3] at h1
  simp only [State.fetchInstr, h1, h2, true_and]
  simp only [State.afterFetch, State.upd, pc_next]

/-- The operand bytes a format does not have make no difference. -/
theorem Shape.build_bytes (m x : Bool) (sh : Shape) (l : List Byte) :
    sh.build m x ((l.take (sh.operandBytes m x)).getD 0 0) ((l.take (sh.operandBytes m x)).getD 1 0)
        ((l.take (sh.operandBytes m x)).getD 2 0) = sh.build m x (l.getD 0 0) (l.getD 1 0) (l.getD 2 0) := by
  have t : ∀ n i, i < n → (l.take n).getD i 0 = l.getD i 0 := by
    intro n i hi
    simp only [List.getD_eq_getElem?_getD, List.getElem?_take, if_pos hi]
  cases sh with
  | immM f => cases m <;> simp [Shape.build, Shape.operandBytes, immOperand]
  | immX f => cases x <;> simp [Shape.build, Shape.operandBytes, immOperand]
  | _ => simp only [Shape.build, Shape.operandBytes] <;> simp only [t, Nat.zero_lt_succ, Nat.reduceLT]

theorem State.peekBytes_take (s : State) (b : Byte) (o : Word) (n k : Nat) (h : k ≤ n) :
    (s.peekBytes b o n).take k = s.peekBytes b o k := by
  induction n generalizing o k with
  | zero => cases k with
    | zero => rfl
    | succ k => omega
  | succ n ih =>
    cases k with
    | zero => rfl
    | succ k => simp only [State.peekBytes, List.take_succ_cons, ih (o + 1) k (by omega)]

theorem Shape.operandBytes_le (m x : Bool) (sh : Shape) : sh.operandBytes m x ≤ 3 := by
  cases sh <;> simp only [Shape.operandBytes] <;> first | omega | (split <;> omega)

/-- What is fetched is what the decoder reads from the bytes at the program counter: the bytes after the instruction may lie
on an I/O page. -/
theorem State.fetchInstr_decode {s : State} {i : Instr} {rest : List Byte}
    (hd : decode s.regs.p.m s.regs.p.x (s.peekBytes s.regs.pbr s.regs.pc 4) = .ok (i, rest))
    (h : s.OffIo .read (bytesAddrs s.regs.pbr s.regs.pc (4 - rest.length))) :
    s.fetchInstr.instr s.regs.p.m s.regs.p.x = i ∧ s.fetchInstr.operands.length + 1 + rest.length = 4 := by
  have hp : s.peekBytes s.regs.pbr s.regs.pc 4 =
      s.peek (joinAddr s.regs.pbr s.regs.pc) :: s.peekBytes s.regs.pbr (s.regs.pc + 1) 3 := rfl
  have h3 : (s.peekBytes s.regs.pbr (s.regs.pc + 1) 3).length = 3 := rfl
  have hle := Shape.operandBytes_le s.regs.p.m s.regs.p.x (opcodeShape (s.peek (joinAddr s.regs.pbr s.regs.pc)))
  rw [hp] at hd
  simp only [decode] at hd
  rw [if_neg (by omega)] at hd
  injection hd with hd
  injection hd with hi hr
  have hn : rest.length + (opcodeShape (s.peek (joinAddr s.regs.pbr s.regs.pc))).operandBytes s.regs.p.m s.regs.p.x = 3 := by
    rw [← hr, List.length_drop, h3]
    omega
  have ho : s.fetchInstr.opcode = s.peek (joinAddr s.regs.pbr s.regs.pc) :=
    State.fetchInstr_opcode (h _ (by rw [show 4 - rest.length = (3 - rest.length) + 1 by omega]; exact List.mem_cons_self))
  have hl := State.fetchInstr_length s
  rw [ho] at hl
  obtain ⟨-, h2, -⟩ := State.fetchInstr_offIo (s := s) (by rw [hl, show _ + 1 = 4 - rest.length by omega]; exact h)
  constructor
  · rw [← hi, ← Shape.build_bytes, State.peekBytes_take _ _ _ _ _ hle, ← hl, ← h2, ← ho]
    rfl
  · omega

end Sys2Proof.Machine
end

