-- ==== Sys2Proof/Laws/Frame.lean ====
section
/-! SUPPORT. What the shared operations do in every state, I/O pages or not: the registers they leave, and what else they
keep. -/

namespace Sys2Proof.Machine

/-! ## The registers -/

@[simp] theorem State.read16_regs (s : State) (b : Byte) (p : Bool) (o : Word) : (s.read16 b p o).2.regs = s.regs := by
  simp only [State.read16, State.busRead_regs]

@[simp] theorem State.read24_regs (s : State) (o : Word) : (s.read24Bank0 o).2.regs = s.regs := by
  simp only [State.read24Bank0, State.busRead_regs]

@[simp] theorem State.effective_regs (s : State) (md : Mode) : (s.effective md).2.regs = s.regs := by
  cases md <;> simp only [State.effective, State.read16DpPtr, State.read16Bank0, State.read16_regs, State.read24_regs]

@[simp] theorem State.readData_regs (s : State) (w : Width) (e : Ea) : (s.readData w e).2.regs = s.regs := by
  cases w <;> simp only [State.readData, State.busRead_regs]

@[simp] theorem State.writeData_regs (s : State) (w : Width) (e : Ea) (v : Word) : (s.writeData w e v).regs = s.regs := by
  cases w <;> simp only [State.writeData, State.busWrite_regs]

@[simp] theorem State.writeBack_regs (s : State) (w : Width) (e : Ea) (v : Word) : (s.writeBack w e v).regs = s.regs := by
  cases w <;> simp only [State.writeBack, State.busWrite_regs]

/-- An instruction that reads its operand makes registers of some datum. -/
theorem State.readOperand_regs (s : State) (md : Mode) (w : Width) (n : Nat) (f : Word → Regs → Regs) :
    ∃ v, (s.readOperand md w n f).regs = f v s.regs :=
  ⟨((s.effective md).2.readData w (s.effective md).1).1, by
    simp only [State.readOperand, State.settle_regs, State.mapRegs_regs, State.readData_regs, State.effective_regs]⟩

@[simp] theorem State.store_regs (s : State) (md : Mode) (w : Width) (v : Word) : (s.store md w v).regs = s.regs := by
  simp only [State.store, State.settle_regs, State.writeData_regs, State.effective_regs]

/-- A read-modify-write changes P as its operation says on some datum, and no other register. -/
theorem State.modify_regs (s : State) (md : Mode) (op : RmwOp) :
    ∃ v, (s.modify md op).regs =
      { s.regs with p := (runOp op s.regs.p.widthM s.regs.a v s.regs.p).2 } :=
  ⟨((s.effective md).2.readData s.regs.p.widthM (s.effective md).1).1, by
    simp only [State.modify, State.settle_regs, State.mapRegs_regs, State.writeBack_regs, State.internal_regs,
      State.readData_regs, State.effective_regs]⟩

@[simp] theorem State.implied_regs (s : State) (n : Nat) (f : Regs → Regs) : (s.implied n f).regs = f s.regs := rfl

@[simp] theorem State.immediate_regs (s : State) (imm : Word) (w : Width) (n : Nat) (f : Word → Regs → Regs) :
    (s.immediate imm w n f).regs = f imm s.regs := rfl

@[simp] theorem State.push8_regs (s : State) (full : Bool) (b : Byte) :
    (s.push8 full b).regs = { s.regs with s := stackDown (s.regs.e && !full) s.regs.s } := by
  simp only [State.push8, State.busWrite_regs]

@[simp] theorem State.pull8_regs (s : State) (full : Bool) :
    (s.pull8 full).2.regs = { s.regs with s := stackUp (s.regs.e && !full) s.regs.s } := by
  simp only [State.pull8, State.busRead_regs]

@[simp] theorem State.push16_regs (s : State) (full : Bool) (v : Word) :
    (s.push16 full v).regs = { s.regs with s := stackMove (stackDown (s.regs.e && !full)) 2 s.regs.s } := by
  simp only [State.push16, State.push8_regs, stackMove]

@[simp] theorem State.pull16_regs (s : State) (full : Bool) :
    (s.pull16 full).2.regs = { s.regs with s := stackMove (stackUp (s.regs.e && !full)) 2 s.regs.s } := by
  simp only [State.pull16, State.pull8_regs, stackMove]

@[simp] theorem State.pushAt_regs (s : State) (full : Bool) (w : Width) (v : Word) :
    (s.pushAt full w v).regs = { s.regs with s := stackMove (stackDown (s.regs.e && !full)) w.bytes s.regs.s } := by
  cases w
  · simp only [State.pushAt, State.push8_regs]; rfl
  · simp only [State.pushAt, State.push16_regs]; rfl

@[simp] theorem State.pullAt_regs (s : State) (full : Bool) (w : Width) :
    (s.pullAt full w).2.regs = { s.regs with s := stackMove (stackUp (s.regs.e && !full)) w.bytes s.regs.s } := by
  cases w
  · simp only [State.pullAt, State.pull8_regs]; rfl
  · simp only [State.pullAt, State.pull16_regs]; rfl

@[simp] theorem State.endQuirk_regs (s : State) (full : Bool) :
    (s.endQuirk full).regs = { s.regs with s := if full && s.regs.e then joinWord 0x01 (lowByte s.regs.s) else s.regs.s } := by
  unfold State.endQuirk
  split <;> rfl

@[simp] theorem State.pushFrame_regs (s : State) (kind : EntryKind) :
    (s.pushFrame kind).regs =
      { s.regs with s := stackMove (stackDown (s.entryConfined kind)) (s.frameBytes kind).length s.regs.s } := by
  unfold State.pushFrame State.entryConfined State.frameBytes
  cases he : s.regs.e <;> simp [he, stackMove]

/-- An entry loads PC with some vector. -/
theorem State.interruptEntry_regs (s : State) (kind : EntryKind) :
    ∃ pc, (s.interruptEntry kind).regs =
      { s.regs with s := s.frameS kind, p := { s.regs.p with i := true, d := false }, pbr := 0x00, pc := pc } := by
  refine ⟨(((s.pushFrame kind).mapRegs Regs.enter).pullVector (vectorOffset s.regs.e kind)).1, ?_⟩
  simp only [State.interruptEntry, State.loadVector, State.pullVector, State.endQuirk_regs, State.mapRegs_regs,
    State.busRead_regs, State.pushFrame_regs, Regs.enter, State.frameS]
  congr 1
  simp only [Bool.and_comm]

/-! ## Everything else -/

/-- What every operation of an instruction keeps: `t` comes from `s` by bus accesses, internal cycles and changes of
registers. -/
structure Rest (s t : State) : Prop where
  params : t.params = s.params
  trace : t.trace = s.trace
  fetchPbr : t.fetchPbr = s.fetchPbr
  fetchPc : t.fetchPc = s.fetchPc
  mode : s.pins.SameMode t.pins
  fastStep : t.clock.fastStep = s.clock.fastStep
  slowStep : t.clock.slowStep = s.clock.slowStep
  rom : t.bus.mem.rom = s.bus.mem.rom
  mem : s.bus.mem.wf = true → t.bus.mem.wf = true
  bankMap : entriesWf 0 0x100 s.bus.bankMap = true → entriesWf 0 0x100 t.bus.bankMap = true
  readPages : entriesWf 0 0x10000 s.bus.readPages = true → entriesWf 0 0x10000 t.bus.readPages = true
  writePages : entriesWf 0 0x10000 s.bus.writePages = true → entriesWf 0 0x10000 t.bus.writePages = true

theorem Rest.refl (s : State) : Rest s s :=
  ⟨rfl, rfl, rfl, rfl, Pins.SameMode.refl _, rfl, rfl, rfl, id, id, id, id⟩

theorem Rest.trans {s t u : State} (h : Rest s t) (h' : Rest t u) : Rest s u :=
  ⟨h'.1.trans h.1, h'.2.trans h.2, h'.3.trans h.3, h'.4.trans h.4, h.5.trans h'.5, h'.6.trans h.6, h'.7.trans h.7,
    h'.8.trans h.8, h'.9 ∘ h.9, h'.10 ∘ h.10, h'.11 ∘ h.11, h'.12 ∘ h.12⟩

theorem Rest.mapRegs (s : State) (f : Regs → Regs) : Rest s (s.mapRegs f) :=
  ⟨rfl, rfl, rfl, rfl, Pins.SameMode.refl _, rfl, rfl, rfl, id, id, id, id⟩

theorem Rest.internal (s : State) (n : Nat) : Rest s (s.internal n) :=
  ⟨rfl, rfl, rfl, rfl, Pins.SameMode.refl _, rfl, rfl, rfl, id, id, id, id⟩

theorem Rest.settle (s s0 : State) (a b : Nat) : Rest s (s.settle a b s0) := Rest.internal s _

theorem Rest.busCycle (s : State) (t : Target) : Rest s (s.busCycle t) :=
  ⟨rfl, rfl, rfl, rfl, Pins.SameMode.refl _, rfl, rfl, rfl, id, id, id, id⟩

theorem pageKey_lt (bank page : Byte) : pageKey bank page < 0x10000 := (joinWord bank page).isLt

/-- Edits of the maps keep their form. -/
theorem Bus.edit_wf (es : List PageEdit) (bs : List (Byte × BankDesc)) (b : Bus) :
    (entriesWf 0 0x100 b.bankMap = true → entriesWf 0 0x100 (b.edit bs es).bankMap = true) ∧
    (entriesWf 0 0x10000 b.readPages = true → entriesWf 0 0x10000 (b.edit bs es).readPages = true) ∧
    (entriesWf 0 0x10000 b.writePages = true → entriesWf 0 0x10000 (b.edit bs es).writePages = true) := by
  unfold Bus.edit
  induction bs generalizing b with
  | nil =>
    simp only [List.foldl_nil]
    induction es generalizing b with
    | nil => exact ⟨id, id, id⟩
    | cons e es ih =>
      obtain ⟨h1, h2, h3⟩ := ih (b.editPage e)
      have hk := pageKey_lt e.bank e.page
      rw [List.foldl_cons]
      refine ⟨fun h => h1 ?_, fun h => h2 ?_, fun h => h3 ?_⟩
      · unfold Bus.editPage; split <;> exact h
      · unfold Bus.editPage; split
        · exact entryWrite_wf (Nat.zero_le _) hk h
        · exact h
      · unfold Bus.editPage; split
        · exact h
        · exact entryWrite_wf (Nat.zero_le _) hk h
  | cons e bs ih =>
    obtain ⟨h1, h2, h3⟩ := ih (b.editBank e)
    rw [List.foldl_cons]
    exact ⟨fun h => h1 (entryWrite_wf (Nat.zero_le _) e.1.isLt h), h2, h3⟩

theorem Rest.applyIo (s : State) (x : IoAccess) : Rest s (s.applyIo x) := by
  obtain ⟨h1, h2, h3⟩ := Bus.edit_wf (Config.mmioEffect s.bus.ioCount x).pageEdits
    (Config.mmioEffect s.bus.ioCount x).bankEdits s.bus
  exact ⟨rfl, rfl, rfl, rfl, ⟨rfl, rfl, rfl, rfl, rfl⟩, rfl, rfl, by rw [State.applyIo_mem],
    fun h => by rw [State.applyIo_mem]; exact h, h1, h2, h3⟩

theorem Rest.busRead (s : State) (a : Addr) (k : AccessKind) : Rest s (s.busRead a k).2 := by
  unfold State.busRead
  split
  · split
    · exact Rest.busCycle s .io
    · exact (Rest.busCycle s .io).trans (Rest.applyIo _ _)
  · exact Rest.busCycle s _
  · exact Rest.busCycle s _

theorem Rest.busWrite (s : State) (a : Addr) (k : AccessKind) (v : Byte) : Rest s (s.busWrite a k v) := by
  unfold State.busWrite
  split
  · exact (Rest.busCycle s .io).trans (Rest.applyIo _ _)
  · exact ⟨rfl, rfl, rfl, rfl, Pins.SameMode.refl _, rfl, rfl, Memory.writeTarget_rom _ _ _ _,
      fun h => Memory.writeTarget_wf h _ _ _, id, id, id⟩

theorem Rest.read16 (s : State) (b : Byte) (p : Bool) (o : Word) : Rest s (s.read16 b p o).2 :=
  (Rest.busRead s _ _).trans (Rest.busRead _ _ _)

theorem Rest.read24 (s : State) (o : Word) : Rest s (s.read24Bank0 o).2 :=
  ((Rest.busRead s _ _).trans (Rest.busRead _ _ _)).trans (Rest.busRead _ _ _)

theorem Rest.effective (s : State) (md : Mode) : Rest s (s.effective md).2 := by
  cases md with
  | abs | long | dp | absX | longX | absY | dpX | dpY | sr => exact Rest.refl s
  | dpInd | dpXInd | dpIndY | srIndY => exact Rest.read16 s 0x00 _ _
  | dpIndLong | dpIndLongY => exact Rest.read24 s _

theorem Rest.readData (s : State) (w : Width) (e : Ea) : Rest s (s.readData w e).2 := by
  cases w
  · exact Rest.busRead s _ _
  · exact (Rest.busRead s _ _).trans (Rest.busRead _ _ _)

theorem Rest.writeData (s : State) (w : Width) (e : Ea) (v : Word) : Rest s (s.writeData w e v) := by
  cases w
  · unfold State.writeData
    exact Rest.busWrite s _ .data _
  · unfold State.writeData
    exact (Rest.busWrite s _ .data _).trans (Rest.busWrite _ _ .data _)

theorem Rest.writeBack (s : State) (w : Width) (e : Ea) (v : Word) : Rest s (s.writeBack w e v) := by
  cases w
  · unfold State.writeBack
    exact Rest.busWrite s _ .data _
  · unfold State.writeBack
    exact (Rest.busWrite s _ .data _).trans (Rest.busWrite _ _ .data _)

theorem Rest.readOperand (s : State) (md : Mode) (w : Width) (n : Nat) (f : Word → Regs → Regs) :
    Rest s (s.readOperand md w n f) :=
  (Rest.effective s md).trans ((Rest.readData _ w _).trans ((Rest.mapRegs _ _).trans (Rest.settle _ _ _ _)))

theorem Rest.store (s : State) (md : Mode) (w : Width) (v : Word) : Rest s (s.store md w v) :=
  (Rest.effective s md).trans ((Rest.writeData _ w _ v).trans (Rest.settle _ _ _ _))

theorem Rest.modify (s : State) (md : Mode) (op : RmwOp) : Rest s (s.modify md op) :=
  (Rest.effective s md).trans ((Rest.readData _ _ _).trans ((Rest.internal _ 1).trans
    ((Rest.writeBack _ _ _ _).trans ((Rest.mapRegs _ _).trans (Rest.settle _ _ _ _)))))

theorem Rest.implied (s : State) (n : Nat) (f : Regs → Regs) : Rest s (s.implied n f) :=
  (Rest.mapRegs s f).trans (Rest.settle _ _ _ _)

theorem Rest.immediate (s : State) (imm : Word) (w : Width) (n : Nat) (f : Word → Regs → Regs) :
    Rest s (s.immediate imm w n f) := (Rest.mapRegs s _).trans (Rest.settle _ _ _ _)

/-- Only the registers of the second state differ. -/
theorem Rest.regs {s t u : State} (h : Rest s t) (h1 : u.params = t.params) (h2 : u.trace = t.trace)
    (h3 : u.fetchPbr = t.fetchPbr) (h4 : u.fetchPc = t.fetchPc) (h5 : u.pins = t.pins) (h6 : u.clock = t.clock)
    (h7 : u.bus = t.bus) : Rest s u := by
  refine h.trans ⟨h1, h2, h3, h4, ?_, ?_, ?_, ?_, ?_, ?_, ?_, ?_⟩
  · rw [h5]; exact Pins.SameMode.refl _
  · rw [h6]
  · rw [h6]
  all_goals rw [h7]
  all_goals exact id

theorem Rest.push8 (s : State) (full : Bool) (b : Byte) : Rest s (s.push8 full b) :=
  (Rest.busWrite s _ _ _).regs rfl rfl rfl rfl rfl rfl rfl

theorem Rest.pull8 (s : State) (full : Bool) : Rest s (s.pull8 full).2 := by
  unfold State.pull8
  refine Rest.trans ?_ (Rest.busRead _ _ _)
  exact (Rest.refl s).regs rfl rfl rfl rfl rfl rfl rfl

theorem Rest.push16 (s : State) (full : Bool) (v : Word) : Rest s (s.push16 full v) :=
  (Rest.push8 s _ _).trans (Rest.push8 _ _ _)

theorem Rest.pull16 (s : State) (full : Bool) : Rest s (s.pull16 full).2 :=
  (Rest.pull8 s _).trans (Rest.pull8 _ _)

theorem Rest.pushAt (s : State) (full : Bool) (w : Width) (v : Word) : Rest s (s.pushAt full w v) := by
  cases w
  · exact Rest.push8 s _ _
  · exact Rest.push16 s _ _

theorem Rest.pullAt (s : State) (full : Bool) (w : Width) : Rest s (s.pullAt full w).2 := by
  cases w
  · exact Rest.pull8 s _
  · exact Rest.pull16 s _

theorem Rest.endQuirk (s : State) (full : Bool) : Rest s (s.endQuirk full) := by
  unfold State.endQuirk
  split
  · exact (Rest.refl s).regs rfl rfl rfl rfl rfl rfl rfl
  · exact Rest.refl s

theorem Rest.pullVector (s : State) (v : Word) : Rest s (s.pullVector v).2 := by
  unfold State.pullVector
  exact (Rest.busRead s _ _).trans (Rest.busRead _ _ _)

theorem Rest.loadVector (s : State) (v : Word) : Rest s (s.loadVector v) := by
  unfold State.loadVector
  exact (Rest.pullVector s v).trans (Rest.mapRegs (s.pullVector v).2 _)

theorem Rest.pushFrame (s : State) (kind : EntryKind) : Rest s (s.pushFrame kind) := by
  unfold State.pushFrame
  split
  · exact (Rest.push16 s _ _).trans (Rest.push8 _ _ _)
  · exact (Rest.push8 s _ _).trans ((Rest.push16 _ _ _).trans (Rest.push8 _ _ _))

theorem Rest.interruptEntry (s : State) (kind : EntryKind) : Rest s (s.interruptEntry kind) :=
  (Rest.pushFrame s kind).trans ((Rest.mapRegs _ _).trans ((Rest.loadVector _ _).trans (Rest.endQuirk _ _)))

theorem Rest.returnStatus (s : State) (full : Bool) : Rest s (s.returnStatus full) := by
  unfold State.returnStatus
  exact (Rest.pull8 s full).trans (Rest.mapRegs (s.pull8 full).2 _)

theorem Rest.returnPc (s : State) (full : Bool) : Rest s (s.returnPc full) := by
  unfold State.returnPc
  exact (Rest.pull16 s full).trans (Rest.mapRegs (s.pull16 full).2 _)

theorem Rest.returnBank (s : State) (full : Bool) : Rest s (s.returnBank full) := by
  unfold State.returnBank
  split
  · exact Rest.refl _
  · exact (Rest.pull8 s full).trans (Rest.mapRegs (s.pull8 full).2 _)

theorem Rest.interruptReturn (s : State) (full : Bool) : Rest s (s.interruptReturn full) :=
  (Rest.returnStatus s full).trans ((Rest.returnPc _ full).trans ((Rest.returnBank _ full).trans (Rest.endQuirk _ full)))

theorem Rest.fetchByte (s : State) (k : AccessKind) : Rest s (s.fetchByte k).2 := by
  unfold State.fetchByte
  exact Rest.trans (Rest.busRead s _ _) ((Rest.refl _).regs rfl rfl rfl rfl rfl rfl rfl)

theorem Rest.fetchOperands (s : State) (n : Nat) : Rest s (s.fetchOperands n).2 := by
  induction n generalizing s with
  | zero => exact Rest.refl s
  | succ n ih => exact (Rest.fetchByte s _).trans (ih _)

end Sys2Proof.Machine
end

