-- ==== Sys2Proof/Laws/HostPort.lean ====
section
/-! SUPPORT. What the host's functions keep: the canonical form of the memory, the invariant. -/

namespace Sys2Proof.Machine

theorem Memory.putBytes_wf {m : Memory} (hm : m.wf = true) (store : StoreBank) (off : Nat) (bs : List Byte) :
    (m.putBytes store off bs).wf = true := by
  induction bs generalizing m off with
  | nil => exact hm
  | cons b bs ih => exact ih (Memory.put_wf hm) _

theorem Memory.putRom_wf {m : Memory} (hm : m.wf = true) (at_ : Nat) (bs : List Byte) : (m.putRom at_ bs).wf = true := by
  induction bs generalizing m at_ with
  | nil => exact hm
  | cons b bs ih => exact ih (Memory.put_wf hm) _

theorem Memory.ofImages_wf (image slowE0 slowE1 : List Byte) : (Memory.ofImages image slowE0 slowE1).wf = true :=
  putBytes_wf (putBytes_wf (putRom_wf rfl 0 image) _ _ _) _ _ _

/-- What `initialize` gives for a legal platform satisfies the invariant (20_memory.md R82, 70_reset_and_hazards.md R431). -/
theorem initializeCore_inv {p : Platform} (hp : p.Legal) {rom : Option (List Byte)} {e0 e1 : List Byte} {n : Nat} {s : State}
    (h : initializeCore p rom e0 e1 n = .ok s) : s.Inv := by
  cases rom with
  | none => cases h
  | some image =>
    simp only [initializeCore] at h
    split at h
    · cases h
    · cases h
      obtain ⟨h1, h2, h3⟩ := Bus.edit_wf p.pages p.banks
        { mem := Memory.ofImages image e0 e1, bankMap := [], readPages := [], writePages := [], ioCount := 0 }
      exact ⟨hp.regs, .inl rfl, hp.steps, by rw [Platform.powered, Bus.edit_mem]; exact Memory.ofImages_wf image e0 e1,
        h1 rfl, h2 rfl, h3 rfl⟩

/-- A byte the host writes leaves all but the memory, whose form it keeps. -/
theorem State.poke_eq (s : State) (a : Addr) (v : Byte) :
    ∃ m, s.poke a v = { s with bus := { s.bus with mem := m } } ∧ (s.bus.mem.wf = true → m.wf = true) := by
  unfold State.poke
  split
  · exact ⟨_, rfl, Memory.put_wf⟩
  · exact ⟨_, rfl, id⟩
  · exact ⟨_, rfl, id⟩

theorem State.pokeBytes_eq (s : State) (bank : Byte) (off : Word) (bs : List Byte) :
    ∃ m, s.pokeBytes bank off bs = { s with bus := { s.bus with mem := m } } ∧ (s.bus.mem.wf = true → m.wf = true) := by
  induction bs generalizing s off with
  | nil => exact ⟨_, rfl, id⟩
  | cons b bs ih =>
    obtain ⟨m, h, hm⟩ := s.poke_eq (joinAddr bank off) b
    obtain ⟨m', h', hm'⟩ := ih (s.poke (joinAddr bank off) b) (off + 1)
    exact ⟨m', by rw [State.pokeBytes, h', h], fun hs => hm' (by rw [h]; exact hm hs)⟩

end Sys2Proof.Machine
end

