-- ==== Sys2Proof/Laws/PerInstr.lean ====
section
/-! SUPPORT. One lemma per instruction: the length of its encoding. -/

namespace Sys2Proof.Laws.EncodedLength

/-- The encoding of `i` is an opcode with as many operand bytes as the opcode's format has (30_encoding.md R111,
R112). -/
def Statement (i : Instr) : Prop :=
  ∀ m x, ∃ op ops, encode m x i = op :: ops ∧ ops.length = (opcodeShape op).operandBytes m x

theorem ldaDpXInd (dp : Byte) : Statement (.ldaDpXInd dp) := fun _ _ => ⟨_, _, rfl, rfl⟩
theorem ldaSr (sr : Byte) : Statement (.ldaSr sr) := fun _ _ => ⟨_, _, rfl, rfl⟩
theorem ldaDp (dp : Byte) : Statement (.ldaDp dp) := fun _ _ => ⟨_, _, rfl, rfl⟩
theorem ldaDpIndLong (dp : Byte) : Statement (.ldaDpIndLong dp) := fun _ _ => ⟨_, _, rfl, rfl⟩
theorem ldaImmM (imm : Word) : Statement (.ldaImmM imm) := fun m _ => by cases m <;> exact ⟨_, _, rfl, rfl⟩
theorem ldaAbs (a : Word) : Statement (.ldaAbs a) := fun _ _ => ⟨_, _, rfl, rfl⟩
theorem ldaLong (a : Addr) : Statement (.ldaLong a) := fun _ _ => ⟨_, _, rfl, rfl⟩
theorem ldaDpIndY (dp : Byte) : Statement (.ldaDpIndY dp) := fun _ _ => ⟨_, _, rfl, rfl⟩
theorem ldaDpInd (dp : Byte) : Statement (.ldaDpInd dp) := fun _ _ => ⟨_, _, rfl, rfl⟩
theorem ldaSrIndY (sr : Byte) : Statement (.ldaSrIndY sr) := fun _ _ => ⟨_, _, rfl, rfl⟩
theorem ldaDpX (dp : Byte) : Statement (.ldaDpX dp) := fun _ _ => ⟨_, _, rfl, rfl⟩
theorem ldaDpIndLongY (dp : Byte) : Statement (.ldaDpIndLongY dp) := fun _ _ => ⟨_, _, rfl, rfl⟩
theorem ldaAbsY (a : Word) : Statement (.ldaAbsY a) := fun _ _ => ⟨_, _, rfl, rfl⟩
theorem ldaAbsX (a : Word) : Statement (.ldaAbsX a) := fun _ _ => ⟨_, _, rfl, rfl⟩
theorem ldaLongX (a : Addr) : Statement (.ldaLongX a) := fun _ _ => ⟨_, _, rfl, rfl⟩
theorem ldxImmX (imm : Word) : Statement (.ldxImmX imm) := fun _ x => by cases x <;> exact ⟨_, _, rfl, rfl⟩
theorem ldxDp (dp : Byte) : Statement (.ldxDp dp) := fun _ _ => ⟨_, _, rfl, rfl⟩
theorem ldxAbs (a : Word) : Statement (.ldxAbs a) := fun _ _ => ⟨_, _, rfl, rfl⟩
theorem ldxDpY (dp : Byte) : Statement (.ldxDpY dp) := fun _ _ => ⟨_, _, rfl, rfl⟩
theorem ldxAbsY (a : Word) : Statement (.ldxAbsY a) := fun _ _ => ⟨_, _, rfl, rfl⟩
theorem ldyImmX (imm : Word) : Statement (.ldyImmX imm) := fun _ x => by cases x <;> exact ⟨_, _, rfl, rfl⟩
theorem ldyDp (dp : Byte) : Statement (.ldyDp dp) := fun _ _ => ⟨_, _, rfl, rfl⟩
theorem ldyAbs (a : Word) : Statement (.ldyAbs a) := fun _ _ => ⟨_, _, rfl, rfl⟩
theorem ldyDpX (dp : Byte) : Statement (.ldyDpX dp) := fun _ _ => ⟨_, _, rfl, rfl⟩
theorem ldyAbsX (a : Word) : Statement (.ldyAbsX a) := fun _ _ => ⟨_, _, rfl, rfl⟩
theorem staDpXInd (dp : Byte) : Statement (.staDpXInd dp) := fun _ _ => ⟨_, _, rfl, rfl⟩
theorem staSr (sr : Byte) : Statement (.staSr sr) := fun _ _ => ⟨_, _, rfl, rfl⟩
theorem staDp (dp : Byte) : Statement (.staDp dp) := fun _ _ => ⟨_, _, rfl, rfl⟩
theorem staDpIndLong (dp : Byte) : Statement (.staDpIndLong dp) := fun _ _ => ⟨_, _, rfl, rfl⟩
theorem staAbs (a : Word) : Statement (.staAbs a) := fun _ _ => ⟨_, _, rfl, rfl⟩
theorem staLong (a : Addr) : Statement (.staLong a) := fun _ _ => ⟨_, _, rfl, rfl⟩
theorem staDpIndY (dp : Byte) : Statement (.staDpIndY dp) := fun _ _ => ⟨_, _, rfl, rfl⟩
theorem staDpInd (dp : Byte) : Statement (.staDpInd dp) := fun _ _ => ⟨_, _, rfl, rfl⟩
theorem staSrIndY (sr : Byte) : Statement (.staSrIndY sr) := fun _ _ => ⟨_, _, rfl, rfl⟩
theorem staDpX (dp : Byte) : Statement (.staDpX dp) := fun _ _ => ⟨_, _, rfl, rfl⟩
theorem staDpIndLongY (dp : Byte) : Statement (.staDpIndLongY dp) := fun _ _ => ⟨_, _, rfl, rfl⟩
theorem staAbsY (a : Word) : Statement (.staAbsY a) := fun _ _ => ⟨_, _, rfl, rfl⟩
theorem staAbsX (a : Word) : Statement (.staAbsX a) := fun _ _ => ⟨_, _, rfl, rfl⟩
theorem staLongX (a : Addr) : Statement (.staLongX a) := fun _ _ => ⟨_, _, rfl, rfl⟩
theorem stxDp (dp : Byte) : Statement (.stxDp dp) := fun _ _ => ⟨_, _, rfl, rfl⟩
theorem stxAbs (a : Word) : Statement (.stxAbs a) := fun _ _ => ⟨_, _, rfl, rfl⟩
theorem stxDpY (dp : Byte) : Statement (.stxDpY dp) := fun _ _ => ⟨_, _, rfl, rfl⟩
theorem styDp (dp : Byte) : Statement (.styDp dp) := fun _ _ => ⟨_, _, rfl, rfl⟩
theorem styAbs (a : Word) : Statement (.styAbs a) := fun _ _ => ⟨_, _, rfl, rfl⟩
theorem styDpX (dp : Byte) : Statement (.styDpX dp) := fun _ _ => ⟨_, _, rfl, rfl⟩
theorem stzDp (dp : Byte) : Statement (.stzDp dp) := fun _ _ => ⟨_, _, rfl, rfl⟩
theorem stzDpX (dp : Byte) : Statement (.stzDpX dp) := fun _ _ => ⟨_, _, rfl, rfl⟩
theorem stzAbs (a : Word) : Statement (.stzAbs a) := fun _ _ => ⟨_, _, rfl, rfl⟩
theorem stzAbsX (a : Word) : Statement (.stzAbsX a) := fun _ _ => ⟨_, _, rfl, rfl⟩
theorem adcDpXInd (dp : Byte) : Statement (.adcDpXInd dp) := fun _ _ => ⟨_, _, rfl, rfl⟩
theorem adcSr (sr : Byte) : Statement (.adcSr sr) := fun _ _ => ⟨_, _, rfl, rfl⟩
theorem adcDp (dp : Byte) : Statement (.adcDp dp) := fun _ _ => ⟨_, _, rfl, rfl⟩
theorem adcDpIndLong (dp : Byte) : Statement (.adcDpIndLong dp) := fun _ _ => ⟨_, _, rfl, rfl⟩
theorem adcImmM (imm : Word) : Statement (.adcImmM imm) := fun m _ => by cases m <;> exact ⟨_, _, rfl, rfl⟩
theorem adcAbs (a : Word) : Statement (.adcAbs a) := fun _ _ => ⟨_, _, rfl, rfl⟩
theorem adcLong (a : Addr) : Statement (.adcLong a) := fun _ _ => ⟨_, _, rfl, rfl⟩
theorem adcDpIndY (dp : Byte) : Statement (.adcDpIndY dp) := fun _ _ => ⟨_, _, rfl, rfl⟩
theorem adcDpInd (dp : Byte) : Statement (.adcDpInd dp) := fun _ _ => ⟨_, _, rfl, rfl⟩
theorem adcSrIndY (sr : Byte) : Statement (.adcSrIndY sr) := fun _ _ => ⟨_, _, rfl, rfl⟩
theorem adcDpX (dp : Byte) : Statement (.adcDpX dp) := fun _ _ => ⟨_, _, rfl, rfl⟩
theorem adcDpIndLongY (dp : Byte) : Statement (.adcDpIndLongY dp) := fun _ _ => ⟨_, _, rfl, rfl⟩
theorem adcAbsY (a : Word) : Statement (.adcAbsY a) := fun _ _ => ⟨_, _, rfl, rfl⟩
theorem adcAbsX (a : Word) : Statement (.adcAbsX a) := fun _ _ => ⟨_, _, rfl, rfl⟩
theorem adcLongX (a : Addr) : Statement (.adcLongX a) := fun _ _ => ⟨_, _, rfl, rfl⟩
theorem sbcDpXInd (dp : Byte) : Statement (.sbcDpXInd dp) := fun _ _ => ⟨_, _, rfl, rfl⟩
theorem sbcSr (sr : Byte) : Statement (.sbcSr sr) := fun _ _ => ⟨_, _, rfl, rfl⟩
theorem sbcDp (dp : Byte) : Statement (.sbcDp dp) := fun _ _ => ⟨_, _, rfl, rfl⟩
theorem sbcDpIndLong (dp : Byte) : Statement (.sbcDpIndLong dp) := fun _ _ => ⟨_, _, rfl, rfl⟩
theorem sbcImmM (imm : Word) : Statement (.sbcImmM imm) := fun m _ => by cases m <;> exact ⟨_, _, rfl, rfl⟩
theorem sbcAbs (a : Word) : Statement (.sbcAbs a) := fun _ _ => ⟨_, _, rfl, rfl⟩
theorem sbcLong (a : Addr) : Statement (.sbcLong a) := fun _ _ => ⟨_, _, rfl, rfl⟩
theorem sbcDpIndY (dp : Byte) : Statement (.sbcDpIndY dp) := fun _ _ => ⟨_, _, rfl, rfl⟩
theorem sbcDpInd (dp : Byte) : Statement (.sbcDpInd dp) := fun _ _ => ⟨_, _, rfl, rfl⟩
theorem sbcSrIndY (sr : Byte) : Statement (.sbcSrIndY sr) := fun _ _ => ⟨_, _, rfl, rfl⟩
theorem sbcDpX (dp : Byte) : Statement (.sbcDpX dp) := fun _ _ => ⟨_, _, rfl, rfl⟩
theorem sbcDpIndLongY (dp : Byte) : Statement (.sbcDpIndLongY dp) := fun _ _ => ⟨_, _, rfl, rfl⟩
theorem sbcAbsY (a : Word) : Statement (.sbcAbsY a) := fun _ _ => ⟨_, _, rfl, rfl⟩
theorem sbcAbsX (a : Word) : Statement (.sbcAbsX a) := fun _ _ => ⟨_, _, rfl, rfl⟩
theorem sbcLongX (a : Addr) : Statement (.sbcLongX a) := fun _ _ => ⟨_, _, rfl, rfl⟩
theorem andDpXInd (dp : Byte) : Statement (.andDpXInd dp) := fun _ _ => ⟨_, _, rfl, rfl⟩
theorem andSr (sr : Byte) : Statement (.andSr sr) := fun _ _ => ⟨_, _, rfl, rfl⟩
theorem andDp (dp : Byte) : Statement (.andDp dp) := fun _ _ => ⟨_, _, rfl, rfl⟩
theorem andDpIndLong (dp : Byte) : Statement (.andDpIndLong dp) := fun _ _ => ⟨_, _, rfl, rfl⟩
theorem andImmM (imm : Word) : Statement (.andImmM imm) := fun m _ => by cases m <;> exact ⟨_, _, rfl, rfl⟩
theorem andAbs (a : Word) : Statement (.andAbs a) := fun _ _ => ⟨_, _, rfl, rfl⟩
theorem andLong (a : Addr) : Statement (.andLong a) := fun _ _ => ⟨_, _, rfl, rfl⟩
theorem andDpIndY (dp : Byte) : Statement (.andDpIndY dp) := fun _ _ => ⟨_, _, rfl, rfl⟩
theorem andDpInd (dp : Byte) : Statement (.andDpInd dp) := fun _ _ => ⟨_, _, rfl, rfl⟩
theorem andSrIndY (sr : Byte) : Statement (.andSrIndY sr) := fun _ _ => ⟨_, _, rfl, rfl⟩
theorem andDpX (dp : Byte) : Statement (.andDpX dp) := fun _ _ => ⟨_, _, rfl, rfl⟩
theorem andDpIndLongY (dp : Byte) : Statement (.andDpIndLongY dp) := fun _ _ => ⟨_, _, rfl, rfl⟩
theorem andAbsY (a : Word) : Statement (.andAbsY a) := fun _ _ => ⟨_, _, rfl, rfl⟩
theorem andAbsX (a : Word) : Statement (.andAbsX a) := fun _ _ => ⟨_, _, rfl, rfl⟩
theorem andLongX (a : Addr) : Statement (.andLongX a) := fun _ _ => ⟨_, _, rfl, rfl⟩
theorem oraDpXInd (dp : Byte) : Statement (.oraDpXInd dp) := fun _ _ => ⟨_, _, rfl, rfl⟩
theorem oraSr (sr : Byte) : Statement (.oraSr sr) := fun _ _ => ⟨_, _, rfl, rfl⟩
theorem oraDp (dp : Byte) : Statement (.oraDp dp) := fun _ _ => ⟨_, _, rfl, rfl⟩
theorem oraDpIndLong (dp : Byte) : Statement (.oraDpIndLong dp) := fun _ _ => ⟨_, _, rfl, rfl⟩
theorem oraImmM (imm : Word) : Statement (.oraImmM imm) := fun m _ => by cases m <;> exact ⟨_, _, rfl, rfl⟩
theorem oraAbs (a : Word) : Statement (.oraAbs a) := fun _ _ => ⟨_, _, rfl, rfl⟩
theorem oraLong (a : Addr) : Statement (.oraLong a) := fun _ _ => ⟨_, _, rfl, rfl⟩
theorem oraDpIndY (dp : Byte) : Statement (.oraDpIndY dp) := fun _ _ => ⟨_, _, rfl, rfl⟩
theorem oraDpInd (dp : Byte) : Statement (.oraDpInd dp) := fun _ _ => ⟨_, _, rfl, rfl⟩
theorem oraSrIndY (sr : Byte) : Statement (.oraSrIndY sr) := fun _ _ => ⟨_, _, rfl, rfl⟩
theorem oraDpX (dp : Byte) : Statement (.oraDpX dp) := fun _ _ => ⟨_, _, rfl, rfl⟩
theorem oraDpIndLongY (dp : Byte) : Statement (.oraDpIndLongY dp) := fun _ _ => ⟨_, _, rfl, rfl⟩
theorem oraAbsY (a : Word) : Statement (.oraAbsY a) := fun _ _ => ⟨_, _, rfl, rfl⟩
theorem oraAbsX (a : Word) : Statement (.oraAbsX a) := fun _ _ => ⟨_, _, rfl, rfl⟩
theorem oraLongX (a : Addr) : Statement (.oraLongX a) := fun _ _ => ⟨_, _, rfl, rfl⟩
theorem eorDpXInd (dp : Byte) : Statement (.eorDpXInd dp) := fun _ _ => ⟨_, _, rfl, rfl⟩
theorem eorSr (sr : Byte) : Statement (.eorSr sr) := fun _ _ => ⟨_, _, rfl, rfl⟩
theorem eorDp (dp : Byte) : Statement (.eorDp dp) := fun _ _ => ⟨_, _, rfl, rfl⟩
theorem eorDpIndLong (dp : Byte) : Statement (.eorDpIndLong dp) := fun _ _ => ⟨_, _, rfl, rfl⟩
theorem eorImmM (imm : Word) : Statement (.eorImmM imm) := fun m _ => by cases m <;> exact ⟨_, _, rfl, rfl⟩
theorem eorAbs (a : Word) : Statement (.eorAbs a) := fun _ _ => ⟨_, _, rfl, rfl⟩
theorem eorLong (a : Addr) : Statement (.eorLong a) := fun _ _ => ⟨_, _, rfl, rfl⟩
theorem eorDpIndY (dp : Byte) : Statement (.eorDpIndY dp) := fun _ _ => ⟨_, _, rfl, rfl⟩
theorem eorDpInd (dp : Byte) : Statement (.eorDpInd dp) := fun _ _ => ⟨_, _, rfl, rfl⟩
theorem eorSrIndY (sr : Byte) : Statement (.eorSrIndY sr) := fun _ _ => ⟨_, _, rfl, rfl⟩
theorem eorDpX (dp : Byte) : Statement (.eorDpX dp) := fun _ _ => ⟨_, _, rfl, rfl⟩
theorem eorDpIndLongY (dp : Byte) : Statement (.eorDpIndLongY dp) := fun _ _ => ⟨_, _, rfl, rfl⟩
theorem eorAbsY (a : Word) : Statement (.eorAbsY a) := fun _ _ => ⟨_, _, rfl, rfl⟩
theorem eorAbsX (a : Word) : Statement (.eorAbsX a) := fun _ _ => ⟨_, _, rfl, rfl⟩
theorem eorLongX (a : Addr) : Statement (.eorLongX a) := fun _ _ => ⟨_, _, rfl, rfl⟩
theorem cmpDpXInd (dp : Byte) : Statement (.cmpDpXInd dp) := fun _ _ => ⟨_, _, rfl, rfl⟩
theorem cmpSr (sr : Byte) : Statement (.cmpSr sr) := fun _ _ => ⟨_, _, rfl, rfl⟩
theorem cmpDp (dp : Byte) : Statement (.cmpDp dp) := fun _ _ => ⟨_, _, rfl, rfl⟩
theorem cmpDpIndLong (dp : Byte) : Statement (.cmpDpIndLong dp) := fun _ _ => ⟨_, _, rfl, rfl⟩
theorem cmpImmM (imm : Word) : Statement (.cmpImmM imm) := fun m _ => by cases m <;> exact ⟨_, _, rfl, rfl⟩
theorem cmpAbs (a : Word) : Statement (.cmpAbs a) := fun _ _ => ⟨_, _, rfl, rfl⟩
theorem cmpLong (a : Addr) : Statement (.cmpLong a) := fun _ _ => ⟨_, _, rfl, rfl⟩
theorem cmpDpIndY (dp : Byte) : Statement (.cmpDpIndY dp) := fun _ _ => ⟨_, _, rfl, rfl⟩
theorem cmpDpInd (dp : Byte) : Statement (.cmpDpInd dp) := fun _ _ => ⟨_, _, rfl, rfl⟩
theorem cmpSrIndY (sr : Byte) : Statement (.cmpSrIndY sr) := fun _ _ => ⟨_, _, rfl, rfl⟩
theorem cmpDpX (dp : Byte) : Statement (.cmpDpX dp) := fun _ _ => ⟨_, _, rfl, rfl⟩
theorem cmpDpIndLongY (dp : Byte) : Statement (.cmpDpIndLongY dp) := fun _ _ => ⟨_, _, rfl, rfl⟩
theorem cmpAbsY (a : Word) : Statement (.cmpAbsY a) := fun _ _ => ⟨_, _, rfl, rfl⟩
theorem cmpAbsX (a : Word) : Statement (.cmpAbsX a) := fun _ _ => ⟨_, _, rfl, rfl⟩
theorem cmpLongX (a : Addr) : Statement (.cmpLongX a) := fun _ _ => ⟨_, _, rfl, rfl⟩
theorem cpxImmX (imm : Word) : Statement (.cpxImmX imm) := fun _ x => by cases x <;> exact ⟨_, _, rfl, rfl⟩
theorem cpxDp (dp : Byte) : Statement (.cpxDp dp) := fun _ _ => ⟨_, _, rfl, rfl⟩
theorem cpxAbs (a : Word) : Statement (.cpxAbs a) := fun _ _ => ⟨_, _, rfl, rfl⟩
theorem cpyImmX (imm : Word) : Statement (.cpyImmX imm) := fun _ x => by cases x <;> exact ⟨_, _, rfl, rfl⟩
theorem cpyDp (dp : Byte) : Statement (.cpyDp dp) := fun _ _ => ⟨_, _, rfl, rfl⟩
theorem cpyAbs (a : Word) : Statement (.cpyAbs a) := fun _ _ => ⟨_, _, rfl, rfl⟩
theorem bitDp (dp : Byte) : Statement (.bitDp dp) := fun _ _ => ⟨_, _, rfl, rfl⟩
theorem bitAbs (a : Word) : Statement (.bitAbs a) := fun _ _ => ⟨_, _, rfl, rfl⟩
theorem bitDpX (dp : Byte) : Statement (.bitDpX dp) := fun _ _ => ⟨_, _, rfl, rfl⟩
theorem bitAbsX (a : Word) : Statement (.bitAbsX a) := fun _ _ => ⟨_, _, rfl, rfl⟩
theorem bitImmM (imm : Word) : Statement (.bitImmM imm) := fun m _ => by cases m <;> exact ⟨_, _, rfl, rfl⟩
theorem aslDp (dp : Byte) : Statement (.aslDp dp) := fun _ _ => ⟨_, _, rfl, rfl⟩
theorem aslAcc : Statement .aslAcc := fun _ _ => ⟨_, _, rfl, rfl⟩
theorem aslAbs (a : Word) : Statement (.aslAbs a) := fun _ _ => ⟨_, _, rfl, rfl⟩
theorem aslDpX (dp : Byte) : Statement (.aslDpX dp) := fun _ _ => ⟨_, _, rfl, rfl⟩
theorem aslAbsX (a : Word) : Statement (.aslAbsX a) := fun _ _ => ⟨_, _, rfl, rfl⟩
theorem lsrDp (dp : Byte) : Statement (.lsrDp dp) := fun _ _ => ⟨_, _, rfl, rfl⟩
theorem lsrAcc : Statement .lsrAcc := fun _ _ => ⟨_, _, rfl, rfl⟩
theorem lsrAbs (a : Word) : Statement (.lsrAbs a) := fun _ _ => ⟨_, _, rfl, rfl⟩
theorem lsrDpX (dp : Byte) : Statement (.lsrDpX dp) := fun _ _ => ⟨_, _, rfl, rfl⟩
theorem lsrAbsX (a : Word) : Statement (.lsrAbsX a) := fun _ _ => ⟨_, _, rfl, rfl⟩
theorem rolDp (dp : Byte) : Statement (.rolDp dp) := fun _ _ => ⟨_, _, rfl, rfl⟩
theorem rolAcc : Statement .rolAcc := fun _ _ => ⟨_, _, rfl, rfl⟩
theorem rolAbs (a : Word) : Statement (.rolAbs a) := fun _ _ => ⟨_, _, rfl, rfl⟩
theorem rolDpX (dp : Byte) : Statement (.rolDpX dp) := fun _ _ => ⟨_, _, rfl, rfl⟩
theorem rolAbsX (a : Word) : Statement (.rolAbsX a) := fun _ _ => ⟨_, _, rfl, rfl⟩
theorem rorDp (dp : Byte) : Statement (.rorDp dp) := fun _ _ => ⟨_, _, rfl, rfl⟩
theorem rorAcc : Statement .rorAcc := fun _ _ => ⟨_, _, rfl, rfl⟩
theorem rorAbs (a : Word) : Statement (.rorAbs a) := fun _ _ => ⟨_, _, rfl, rfl⟩
theorem rorDpX (dp : Byte) : Statement (.rorDpX dp) := fun _ _ => ⟨_, _, rfl, rfl⟩
theorem rorAbsX (a : Word) : Statement (.rorAbsX a) := fun _ _ => ⟨_, _, rfl, rfl⟩
theorem incAcc : Statement .incAcc := fun _ _ => ⟨_, _, rfl, rfl⟩
theorem incDp (dp : Byte) : Statement (.incDp dp) := fun _ _ => ⟨_, _, rfl, rfl⟩
theorem incAbs (a : Word) : Statement (.incAbs a) := fun _ _ => ⟨_, _, rfl, rfl⟩
theorem incDpX (dp : Byte) : Statement (.incDpX dp) := fun _ _ => ⟨_, _, rfl, rfl⟩
theorem incAbsX (a : Word) : Statement (.incAbsX a) := fun _ _ => ⟨_, _, rfl, rfl⟩
theorem decAcc : Statement .decAcc := fun _ _ => ⟨_, _, rfl, rfl⟩
theorem decDp (dp : Byte) : Statement (.decDp dp) := fun _ _ => ⟨_, _, rfl, rfl⟩
theorem decAbs (a : Word) : Statement (.decAbs a) := fun _ _ => ⟨_, _, rfl, rfl⟩
theorem decDpX (dp : Byte) : Statement (.decDpX dp) := fun _ _ => ⟨_, _, rfl, rfl⟩
theorem decAbsX (a : Word) : Statement (.decAbsX a) := fun _ _ => ⟨_, _, rfl, rfl⟩
theorem tsbDp (dp : Byte) : Statement (.tsbDp dp) := fun _ _ => ⟨_, _, rfl, rfl⟩
theorem tsbAbs (a : Word) : Statement (.tsbAbs a) := fun _ _ => ⟨_, _, rfl, rfl⟩
theorem trbDp (dp : Byte) : Statement (.trbDp dp) := fun _ _ => ⟨_, _, rfl, rfl⟩
theorem trbAbs (a : Word) : Statement (.trbAbs a) := fun _ _ => ⟨_, _, rfl, rfl⟩
theorem inx : Statement .inx := fun _ _ => ⟨_, _, rfl, rfl⟩
theorem iny : Statement .iny := fun _ _ => ⟨_, _, rfl, rfl⟩
theorem dex : Statement .dex := fun _ _ => ⟨_, _, rfl, rfl⟩
theorem dey : Statement .dey := fun _ _ => ⟨_, _, rfl, rfl⟩
theorem bcc (disp : Byte) : Statement (.bcc disp) := fun _ _ => ⟨_, _, rfl, rfl⟩
theorem bcs (disp : Byte) : Statement (.bcs disp) := fun _ _ => ⟨_, _, rfl, rfl⟩
theorem beq (disp : Byte) : Statement (.beq disp) := fun _ _ => ⟨_, _, rfl, rfl⟩
theorem bne (disp : Byte) : Statement (.bne disp) := fun _ _ => ⟨_, _, rfl, rfl⟩
theorem bmi (disp : Byte) : Statement (.bmi disp) := fun _ _ => ⟨_, _, rfl, rfl⟩
theorem bpl (disp : Byte) : Statement (.bpl disp) := fun _ _ => ⟨_, _, rfl, rfl⟩
theorem bvc (disp : Byte) : Statement (.bvc disp) := fun _ _ => ⟨_, _, rfl, rfl⟩
theorem bvs (disp : Byte) : Statement (.bvs disp) := fun _ _ => ⟨_, _, rfl, rfl⟩
theorem bra (disp : Byte) : Statement (.bra disp) := fun _ _ => ⟨_, _, rfl, rfl⟩
theorem brl (disp : Word) : Statement (.brl disp) := fun _ _ => ⟨_, _, rfl, rfl⟩
theorem jmpPcAbs (a : Word) : Statement (.jmpPcAbs a) := fun _ _ => ⟨_, _, rfl, rfl⟩
theorem jmpPcInd (a : Word) : Statement (.jmpPcInd a) := fun _ _ => ⟨_, _, rfl, rfl⟩
theorem jmpPcIndX (a : Word) : Statement (.jmpPcIndX a) := fun _ _ => ⟨_, _, rfl, rfl⟩
theorem jmlPcLong (a : Addr) : Statement (.jmlPcLong a) := fun _ _ => ⟨_, _, rfl, rfl⟩
theorem jmlPcIndLong (a : Word) : Statement (.jmlPcIndLong a) := fun _ _ => ⟨_, _, rfl, rfl⟩
theorem jsrPcAbs (a : Word) : Statement (.jsrPcAbs a) := fun _ _ => ⟨_, _, rfl, rfl⟩
theorem jsrPcIndX (a : Word) : Statement (.jsrPcIndX a) := fun _ _ => ⟨_, _, rfl, rfl⟩
theorem jsl (a : Addr) : Statement (.jsl a) := fun _ _ => ⟨_, _, rfl, rfl⟩
theorem rts : Statement .rts := fun _ _ => ⟨_, _, rfl, rfl⟩
theorem rtl : Statement .rtl := fun _ _ => ⟨_, _, rfl, rfl⟩
theorem mvn (dst : Byte) (src : Byte) : Statement (.mvn dst src) := fun _ _ => ⟨_, _, rfl, rfl⟩
theorem mvp (dst : Byte) (src : Byte) : Statement (.mvp dst src) := fun _ _ => ⟨_, _, rfl, rfl⟩
theorem brk (sig : Byte) : Statement (.brk sig) := fun _ _ => ⟨_, _, rfl, rfl⟩
theorem cop (sig : Byte) : Statement (.cop sig) := fun _ _ => ⟨_, _, rfl, rfl⟩
theorem rti : Statement .rti := fun _ _ => ⟨_, _, rfl, rfl⟩
theorem wai : Statement .wai := fun _ _ => ⟨_, _, rfl, rfl⟩
theorem stp : Statement .stp := fun _ _ => ⟨_, _, rfl, rfl⟩
theorem pea (imm : Word) : Statement (.pea imm) := fun _ _ => ⟨_, _, rfl, rfl⟩
theorem pei (dp : Byte) : Statement (.pei dp) := fun _ _ => ⟨_, _, rfl, rfl⟩
theorem per (disp : Word) : Statement (.per disp) := fun _ _ => ⟨_, _, rfl, rfl⟩
theorem pha : Statement .pha := fun _ _ => ⟨_, _, rfl, rfl⟩
theorem pla : Statement .pla := fun _ _ => ⟨_, _, rfl, rfl⟩
theorem phx : Statement .phx := fun _ _ => ⟨_, _, rfl, rfl⟩
theorem plx : Statement .plx := fun _ _ => ⟨_, _, rfl, rfl⟩
theorem phy : Statement .phy := fun _ _ => ⟨_, _, rfl, rfl⟩
theorem ply : Statement .ply := fun _ _ => ⟨_, _, rfl, rfl⟩
theorem php : Statement .php := fun _ _ => ⟨_, _, rfl, rfl⟩
theorem plp : Statement .plp := fun _ _ => ⟨_, _, rfl, rfl⟩
theorem phb : Statement .phb := fun _ _ => ⟨_, _, rfl, rfl⟩
theorem plb : Statement .plb := fun _ _ => ⟨_, _, rfl, rfl⟩
theorem phd : Statement .phd := fun _ _ => ⟨_, _, rfl, rfl⟩
theorem pld : Statement .pld := fun _ _ => ⟨_, _, rfl, rfl⟩
theorem phk : Statement .phk := fun _ _ => ⟨_, _, rfl, rfl⟩
theorem rep (mask : Byte) : Statement (.rep mask) := fun _ _ => ⟨_, _, rfl, rfl⟩
theorem sep (mask : Byte) : Statement (.sep mask) := fun _ _ => ⟨_, _, rfl, rfl⟩
theorem wdm (sig : Byte) : Statement (.wdm sig) := fun _ _ => ⟨_, _, rfl, rfl⟩
theorem clc : Statement .clc := fun _ _ => ⟨_, _, rfl, rfl⟩
theorem sec : Statement .sec := fun _ _ => ⟨_, _, rfl, rfl⟩
theorem cli : Statement .cli := fun _ _ => ⟨_, _, rfl, rfl⟩
theorem sei : Statement .sei := fun _ _ => ⟨_, _, rfl, rfl⟩
theorem cld : Statement .cld := fun _ _ => ⟨_, _, rfl, rfl⟩
theorem sed : Statement .sed := fun _ _ => ⟨_, _, rfl, rfl⟩
theorem clv : Statement .clv := fun _ _ => ⟨_, _, rfl, rfl⟩
theorem nop : Statement .nop := fun _ _ => ⟨_, _, rfl, rfl⟩
theorem xce : Statement .xce := fun _ _ => ⟨_, _, rfl, rfl⟩
theorem tax : Statement .tax := fun _ _ => ⟨_, _, rfl, rfl⟩
theorem tay : Statement .tay := fun _ _ => ⟨_, _, rfl, rfl⟩
theorem txa : Statement .txa := fun _ _ => ⟨_, _, rfl, rfl⟩
theorem tya : Statement .tya := fun _ _ => ⟨_, _, rfl, rfl⟩
theorem tsx : Statement .tsx := fun _ _ => ⟨_, _, rfl, rfl⟩
theorem txs : Statement .txs := fun _ _ => ⟨_, _, rfl, rfl⟩
theorem txy : Statement .txy := fun _ _ => ⟨_, _, rfl, rfl⟩
theorem tyx : Statement .tyx := fun _ _ => ⟨_, _, rfl, rfl⟩
theorem tcd : Statement .tcd := fun _ _ => ⟨_, _, rfl, rfl⟩
theorem tdc : Statement .tdc := fun _ _ => ⟨_, _, rfl, rfl⟩
theorem tcs : Statement .tcs := fun _ _ => ⟨_, _, rfl, rfl⟩
theorem tsc : Statement .tsc := fun _ _ => ⟨_, _, rfl, rfl⟩
theorem xba : Statement .xba := fun _ _ => ⟨_, _, rfl, rfl⟩

end Sys2Proof.Laws.EncodedLength
end

