-- ==== Sys2Proof/Laws/Shapes.lean ====
section
/-! SUPPORT. The shapes several instructions share, in every state: what they keep (`Rest`), and the cycles they end with,
counted together with those of their own fetch. -/

namespace Sys2Proof.Machine

/-! ## What they keep -/

theorem Rest.alu (s : State) (op : AluOp) (n : Nat) (md : Mode) : Rest s (s.alu op n md) := Rest.readOperand s _ _ _ _

theorem Rest.aluImm (s : State) (op : AluOp) (n : Nat) (v : Word) : Rest s (s.aluImm op n v) := Rest.immediate s _ _ _ _

theorem Rest.adc (s : State) (md : Mode) : Rest s (s.adc md) := Rest.alu s _ _ _

theorem Rest.sbc (s : State) (md : Mode) : Rest s (s.sbc md) := Rest.alu s _ _ _

theorem Rest.modifyAcc (s : State) (op : RmwOp) : Rest s (s.modifyAcc op) := Rest.implied s _ _

theorem Rest.mapStatus (s : State) (f : Status → Status) : Rest s (s.mapStatus f) := Rest.implied s _ _

theorem Rest.stepX (s : State) (delta : Word) : Rest s (s.stepX delta) := Rest.implied s _ _

theorem Rest.stepY (s : State) (delta : Word) : Rest s (s.stepY delta) := Rest.implied s _ _

theorem Rest.branch (s : State) (cond : Bool) (disp : Byte) : Rest s (s.branch cond disp) := by
  unfold State.branch
  dsimp only
  split
  · exact (Rest.mapRegs s _).trans (Rest.settle _ _ _ _)
  · exact Rest.settle _ _ _ _

theorem Rest.jump {s : State} (n : Nat) {t : Word × State} (h : Rest s t.2) : Rest s (s.jump n t) :=
  (h.trans (Rest.mapRegs _ _)).trans (Rest.settle _ _ _ _)

theorem Rest.jumpLong {s : State} (n len : Nat) {t : Addr × State} (h : Rest s t.2) : Rest s (s.jumpLong n len t) :=
  (h.trans (Rest.mapRegs _ _)).trans (Rest.settle _ _ _ _)

theorem Rest.call (s : State) (a : Word) : Rest s (s.call a) := by
  unfold State.call State.pushReturn
  exact (((Rest.push16 s _ _).trans (Rest.mapRegs _ _)).trans (Rest.endQuirk _ _)).trans (Rest.settle _ _ _ _)

theorem Rest.callIndX (s : State) (a : Word) : Rest s (s.callIndX a) := by
  unfold State.callIndX State.pushReturn State.targetIndX
  exact ((((Rest.push16 s _ _).trans (Rest.read16 _ _ _ _)).trans (Rest.mapRegs _ _)).trans (Rest.endQuirk _ _)).trans
    (Rest.settle _ _ _ _)

theorem Rest.callLong (s : State) (a : Addr) : Rest s (s.callLong a) := by
  unfold State.callLong State.pushReturn
  exact ((((Rest.push8 s _ _).trans (Rest.push16 _ _ _)).trans (Rest.mapRegs _ _)).trans (Rest.endQuirk _ _)).trans
    (Rest.settle _ _ _ _)

theorem Rest.returnShort (s : State) : Rest s s.returnShort := by
  unfold State.returnShort
  exact (((Rest.pull16 s _).trans (Rest.mapRegs _ _)).trans (Rest.endQuirk _ _)).trans (Rest.settle _ _ _ _)

theorem Rest.returnLong (s : State) : Rest s s.returnLong := by
  unfold State.returnLong
  exact ((((Rest.pull16 s _).trans (Rest.pull8 _ _)).trans (Rest.mapRegs _ _)).trans (Rest.endQuirk _ _)).trans
    (Rest.settle _ _ _ _)

theorem Rest.pushing (s : State) (n len : Nat) (u : StackUser) (w : Width) (v : Word) :
    Rest s (s.pushing n len u w v) :=
  ((Rest.pushAt s _ _ _).trans (Rest.endQuirk _ _)).trans (Rest.settle _ _ _ _)

theorem Rest.pulling (s : State) (n : Nat) (u : StackUser) (w : Width) (f : Word → Regs → Regs) :
    Rest s (s.pulling n u w f) := by
  unfold State.pulling
  exact (((Rest.pullAt s _ _).trans (Rest.mapRegs _ _)).trans (Rest.endQuirk _ _)).trans (Rest.settle _ _ _ _)

theorem Rest.pushPointer (s : State) (dp : Byte) : Rest s (s.pushPointer dp) := by
  unfold State.pushPointer
  exact (((Rest.read16 s _ _ _).trans (Rest.pushAt _ _ _ _)).trans (Rest.endQuirk _ _)).trans (Rest.settle _ _ _ _)

theorem Rest.blockMove (s : State) (dst src : Byte) (delta : Word) : Rest s (s.blockMove dst src delta) := by
  unfold State.blockMove
  exact (((Rest.busRead s _ _).trans (Rest.busWrite _ _ .data _)).trans (Rest.mapRegs _ _)).trans (Rest.settle _ _ _ _)

theorem Rest.mapStatusByte (s : State) (f : Status → Status) : Rest s (s.mapStatusByte f) :=
  (Rest.mapRegs s _).trans (Rest.settle _ _ _ _)

/-! ## The count of cycles -/

/-- `settle` brings an instruction to its total, where the cycles already charged and its fetch are no more than that. -/
theorem State.settle_total {t s0 : State} {total fetched bus : Nat}
    (h : t.clock.cyclesSpent = s0.clock.cyclesSpent + bus) (hle : bus + fetched ≤ total) :
    (t.settle total fetched s0).clock.cyclesSpent + fetched = s0.clock.cyclesSpent + total := by
  unfold State.settle State.internal Clock.charge
  dsimp only
  omega

@[simp] theorem State.push8_cycles (s : State) (full : Bool) (b : Byte) :
    (s.push8 full b).clock.cyclesSpent = s.clock.cyclesSpent + 1 := State.busWrite_cycles _ _ _ _

@[simp] theorem State.pull8_cycles (s : State) (full : Bool) :
    (s.pull8 full).2.clock.cyclesSpent = s.clock.cyclesSpent + 1 := State.busRead_cycles _ _ _

@[simp] theorem State.push16_cycles (s : State) (full : Bool) (v : Word) :
    (s.push16 full v).clock.cyclesSpent = s.clock.cyclesSpent + 2 := by
  simp only [State.push16, State.push8_cycles]

@[simp] theorem State.pull16_cycles (s : State) (full : Bool) :
    (s.pull16 full).2.clock.cyclesSpent = s.clock.cyclesSpent + 2 := by
  simp only [State.pull16, State.pull8_cycles]

@[simp] theorem State.endQuirk_cycles (s : State) (full : Bool) :
    (s.endQuirk full).clock.cyclesSpent = s.clock.cyclesSpent := by
  unfold State.endQuirk
  split <;> rfl

@[simp] theorem State.pushAt_cycles (s : State) (full : Bool) (w : Width) (v : Word) :
    (s.pushAt full w v).clock.cyclesSpent = s.clock.cyclesSpent + w.bytes := by
  cases w <;> simp only [State.pushAt, State.push8_cycles, State.push16_cycles, Width.bytes]

@[simp] theorem State.pullAt_cycles (s : State) (full : Bool) (w : Width) :
    (s.pullAt full w).2.clock.cyclesSpent = s.clock.cyclesSpent + w.bytes := by
  cases w <;> simp only [State.pullAt, State.pull8_cycles, State.pull16_cycles, Width.bytes]

@[simp] theorem State.read16_cycles (s : State) (b : Byte) (p : Bool) (o : Word) :
    (s.read16 b p o).2.clock.cyclesSpent = s.clock.cyclesSpent + 2 := by
  simp only [State.read16, State.busRead_cycles]

@[simp] theorem State.read24_cycles (s : State) (o : Word) :
    (s.read24Bank0 o).2.clock.cyclesSpent = s.clock.cyclesSpent + 3 := by
  simp only [State.read24Bank0, State.busRead_cycles]

/-- The bytes of the pointer a mode reads. -/
def Mode.pointerBytes : Mode → Nat
  | .dpInd _ | .dpXInd _ | .dpIndY _ | .srIndY _ => 2
  | .dpIndLong _ | .dpIndLongY _ => 3
  | .abs _ | .absX _ | .absY _ | .long _ | .longX _ | .dp _ | .dpX _ | .dpY _ | .sr _ => 0

@[simp] theorem State.effective_cycles (s : State) (md : Mode) :
    (s.effective md).2.clock.cyclesSpent = s.clock.cyclesSpent + md.pointerBytes := by
  cases md <;> simp only [State.effective, State.read16DpPtr, State.read16Bank0, State.read16_cycles,
    State.read24_cycles, Mode.pointerBytes, Nat.add_zero]

@[simp] theorem State.readData_cycles (s : State) (w : Width) (e : Ea) :
    (s.readData w e).2.clock.cyclesSpent = s.clock.cyclesSpent + w.bytes := by
  cases w <;> simp only [State.readData, State.busRead_cycles, Width.bytes]

@[simp] theorem State.writeData_cycles (s : State) (w : Width) (e : Ea) (v : Word) :
    (s.writeData w e v).clock.cyclesSpent = s.clock.cyclesSpent + w.bytes := by
  cases w <;> simp only [State.writeData, State.busWrite_cycles, Width.bytes]

@[simp] theorem State.writeBack_cycles (s : State) (w : Width) (e : Ea) (v : Word) :
    (s.writeBack w e v).clock.cyclesSpent = s.clock.cyclesSpent + w.bytes := by
  cases w <;> simp only [State.writeBack, State.busWrite_cycles, Width.bytes]

theorem State.readOperand_total (s : State) (md : Mode) (w : Width) (n : Nat) (f : Word → Regs → Regs) :
    (s.readOperand md w n f).clock.cyclesSpent + md.length =
      s.clock.cyclesSpent + (s.regs.readCycles md w (s.effective md).1 + n) := by
  refine State.settle_total (bus := md.pointerBytes + w.bytes) ?_ ?_
  · simp only [State.mapRegs_clock, State.readData_cycles, State.effective_cycles, Nat.add_assoc]
  · unfold Regs.readCycles Regs.modeCycles
    cases md <;> cases w <;> simp only [Mode.pointerBytes, Mode.length, Mode.cycles, Width.bytes, Width.extra] <;> omega

theorem State.store_total (s : State) (md : Mode) (w : Width) (v : Word) :
    (s.store md w v).clock.cyclesSpent + md.length = s.clock.cyclesSpent + s.regs.storeCycles md w := by
  refine State.settle_total (bus := md.pointerBytes + w.bytes) ?_ ?_
  · simp only [State.writeData_cycles, State.effective_cycles, Nat.add_assoc]
  · unfold Regs.storeCycles Regs.modeCycles
    cases md <;> cases w <;>
      simp only [Mode.pointerBytes, Mode.length, Mode.cycles, Width.bytes, Width.extra, Mode.paysIndex] <;> omega

/-- The modes of the read-modify-writes read no pointer. -/
theorem State.modify_total (s : State) (md : Mode) (op : RmwOp) (h : md.pointerBytes = 0) (hl : md.length < md.cycles) :
    (s.modify md op).clock.cyclesSpent + md.length =
      s.clock.cyclesSpent + s.regs.modifyCycles md s.regs.p.widthM := by
  refine State.settle_total (bus := 2 * s.regs.p.widthM.bytes + 1) ?_ ?_
  · simp only [State.mapRegs_clock, State.writeBack_cycles, State.internal_clock, Clock.charge_cyclesSpent,
      State.readData_cycles, State.effective_cycles, h]
    omega
  · unfold Regs.modifyCycles Regs.modeCycles
    cases s.regs.p.widthM <;> simp only [Width.bytes, Width.extra] <;> omega

theorem State.implied_total (s : State) (n : Nat) (f : Regs → Regs) (h : 1 ≤ n) :
    (s.implied n f).clock.cyclesSpent + 1 = s.clock.cyclesSpent + n :=
  State.settle_total (bus := 0) rfl (by omega)

theorem State.immediate_total (s : State) (imm : Word) (w : Width) (n : Nat) (f : Word → Regs → Regs) :
    (s.immediate imm w n f).clock.cyclesSpent + (1 + w.bytes) = s.clock.cyclesSpent + (1 + w.bytes + n) :=
  State.settle_total (bus := 0) rfl (by omega)

theorem State.pushing_total (s : State) (n len : Nat) (u : StackUser) (w : Width) (v : Word) (h : w.bytes + len ≤ n) :
    (s.pushing n len u w v).clock.cyclesSpent + len = s.clock.cyclesSpent + n :=
  State.settle_total (bus := w.bytes) (by simp only [State.endQuirk_cycles, State.pushAt_cycles]) h

theorem State.pulling_total (s : State) (n : Nat) (u : StackUser) (w : Width) (f : Word → Regs → Regs)
    (h : w.bytes + 1 ≤ n) : (s.pulling n u w f).clock.cyclesSpent + 1 = s.clock.cyclesSpent + n :=
  State.settle_total (bus := w.bytes)
    (by simp only [State.endQuirk_cycles, State.mapRegs_clock, State.pullAt_cycles]) h

/-- An entry makes its pushes and two vector reads. -/
theorem State.interruptEntry_cycles (s : State) (kind : EntryKind) :
    (s.interruptEntry kind).clock.cyclesSpent = s.clock.cyclesSpent + 5 + s.regs.nativeExtra := by
  simp only [State.interruptEntry, State.endQuirk_cycles, State.loadVector, State.pullVector, State.mapRegs_clock,
    State.busRead_cycles, State.pushFrame, State.push8_cycles, State.push16_cycles, Regs.nativeExtra]
  split <;> simp only [State.push8_cycles]

theorem State.interruptReturn_cycles (s : State) (full : Bool) :
    (s.interruptReturn full).clock.cyclesSpent = s.clock.cyclesSpent + 3 + s.regs.nativeExtra := by
  have he : ((s.returnStatus full).returnPc full).regs.e = s.regs.e := by
    simp only [State.returnPc, State.returnStatus, State.mapRegs_regs, State.pull16_regs, Regs.normalize_e,
      State.pull8_regs]
  have hc : ((s.returnStatus full).returnPc full).clock.cyclesSpent = s.clock.cyclesSpent + 3 := by
    simp only [State.returnPc, State.returnStatus, State.mapRegs_clock, State.pull16_cycles, State.pull8_cycles]
  simp only [State.interruptReturn, State.endQuirk_cycles, State.returnBank, he, Regs.nativeExtra]
  split <;> simp only [State.mapRegs_clock, State.pull8_cycles, hc]

end Sys2Proof.Machine
end

