-- ==== Sys2Proof/Tests/Slice0.lean ====
section
/-! SUPPORT. Tests: what the checks refuse, the decoding of every opcode from the rows of 30_encoding.md R116, one step for
most mnemonics from the worked examples of 95_test_vectors.md, and for every statement with hypotheses a state and operands
that meet them. -/

namespace Sys2Proof.Tests

open Sys2Proof Sys2Proof.Machine

/-! ## Well-formedness -/

/-- Where P.M is 1 an immediate of the accumulator family has one byte (30_encoding.md R112). -/
theorem test_wellFormed_immM_refused : (Instr.ldaImmM 0x0100).wellFormed true false = false := by decide

theorem test_wellFormed_immM_accepted :
    (Instr.ldaImmM 0x00FF).wellFormed true false = true ∧ (Instr.ldaImmM 0xFFFF).wellFormed false true = true := by decide

/-- Where P.X is 1 an immediate of the index family has one byte (30_encoding.md R112). -/
theorem test_wellFormed_immX_refused : (Instr.cpyImmX 0x8000).wellFormed false true = false := by decide

theorem test_wellFormed_immX_accepted :
    (Instr.cpyImmX 0x00FF).wellFormed false true = true ∧ (Instr.cpyImmX 0x8000).wellFormed true false = true := by decide

/-! ## Decoding -/

/-- What an opcode with the bytes 0x11, 0x22 and 0x33 after it decodes to, and how many bytes it has. -/
def decoded (m x : Bool) (op : Byte) : Option (Instr × Nat) :=
  match decode m x [op, 0x11, 0x22, 0x33] with
  | .ok (i, rest) => some (i, 4 - rest.length)
  | .error _ => none

theorem test_decode_row0 :
    ([0x00, 0x01, 0x02, 0x03, 0x04, 0x05, 0x06, 0x07, 0x08, 0x09, 0x0A, 0x0B, 0x0C, 0x0D, 0x0E, 0x0F] : List Byte).map
        (decoded true true) =
      [some (.brk 0x11, 2), some (.oraDpXInd 0x11, 2), some (.cop 0x11, 2), some (.oraSr 0x11, 2),
      some (.tsbDp 0x11, 2), some (.oraDp 0x11, 2), some (.aslDp 0x11, 2), some (.oraDpIndLong 0x11, 2),
      some (.php, 1), some (.oraImmM 0x0011, 2), some (.aslAcc, 1), some (.phd, 1), some (.tsbAbs 0x2211, 3),
      some (.oraAbs 0x2211, 3), some (.aslAbs 0x2211, 3), some (.oraLong 0x332211, 4)] := by decide

theorem test_decode_row1 :
    ([0x10, 0x11, 0x12, 0x13, 0x14, 0x15, 0x16, 0x17, 0x18, 0x19, 0x1A, 0x1B, 0x1C, 0x1D, 0x1E, 0x1F] : List Byte).map
        (decoded true true) =
      [some (.bpl 0x11, 2), some (.oraDpIndY 0x11, 2), some (.oraDpInd 0x11, 2), some (.oraSrIndY 0x11, 2),
      some (.trbDp 0x11, 2), some (.oraDpX 0x11, 2), some (.aslDpX 0x11, 2), some (.oraDpIndLongY 0x11, 2),
      some (.clc, 1), some (.oraAbsY 0x2211, 3), some (.incAcc, 1), some (.tcs, 1), some (.trbAbs 0x2211, 3),
      some (.oraAbsX 0x2211, 3), some (.aslAbsX 0x2211, 3), some (.oraLongX 0x332211, 4)] := by decide

theorem test_decode_row2 :
    ([0x20, 0x21, 0x22, 0x23, 0x24, 0x25, 0x26, 0x27, 0x28, 0x29, 0x2A, 0x2B, 0x2C, 0x2D, 0x2E, 0x2F] : List Byte).map
        (decoded true true) =
      [some (.jsrPcAbs 0x2211, 3), some (.andDpXInd 0x11, 2), some (.jsl 0x332211, 4), some (.andSr 0x11, 2),
      some (.bitDp 0x11, 2), some (.andDp 0x11, 2), some (.rolDp 0x11, 2), some (.andDpIndLong 0x11, 2),
      some (.plp, 1), some (.andImmM 0x0011, 2), some (.rolAcc, 1), some (.pld, 1), some (.bitAbs 0x2211, 3),
      some (.andAbs 0x2211, 3), some (.rolAbs 0x2211, 3), some (.andLong 0x332211, 4)] := by decide

theorem test_decode_row3 :
    ([0x30, 0x31, 0x32, 0x33, 0x34, 0x35, 0x36, 0x37, 0x38, 0x39, 0x3A, 0x3B, 0x3C, 0x3D, 0x3E, 0x3F] : List Byte).map
        (decoded true true) =
      [some (.bmi 0x11, 2), some (.andDpIndY 0x11, 2), some (.andDpInd 0x11, 2), some (.andSrIndY 0x11, 2),
      some (.bitDpX 0x11, 2), some (.andDpX 0x11, 2), some (.rolDpX 0x11, 2), some (.andDpIndLongY 0x11, 2),
      some (.sec, 1), some (.andAbsY 0x2211, 3), some (.decAcc, 1), some (.tsc, 1), some (.bitAbsX 0x2211, 3),
      some (.andAbsX 0x2211, 3), some (.rolAbsX 0x2211, 3), some (.andLongX 0x332211, 4)] := by decide

theorem test_decode_row4 :
    ([0x40, 0x41, 0x42, 0x43, 0x44, 0x45, 0x46, 0x47, 0x48, 0x49, 0x4A, 0x4B, 0x4C, 0x4D, 0x4E, 0x4F] : List Byte).map
        (decoded true true) =
      [some (.rti, 1), some (.eorDpXInd 0x11, 2), some (.wdm 0x11, 2), some (.eorSr 0x11, 2),
      some (.mvp 0x11 0x22, 3), some (.eorDp 0x11, 2), some (.lsrDp 0x11, 2), some (.eorDpIndLong 0x11, 2),
      some (.pha, 1), some (.eorImmM 0x0011, 2), some (.lsrAcc, 1), some (.phk, 1), some (.jmpPcAbs 0x2211, 3),
      some (.eorAbs 0x2211, 3), some (.lsrAbs 0x2211, 3), some (.eorLong 0x332211, 4)] := by decide

theorem test_decode_row5 :
    ([0x50, 0x51, 0x52, 0x53, 0x54, 0x55, 0x56, 0x57, 0x58, 0x59, 0x5A, 0x5B, 0x5C, 0x5D, 0x5E, 0x5F] : List Byte).map
        (decoded true true) =
      [some (.bvc 0x11, 2), some (.eorDpIndY 0x11, 2), some (.eorDpInd 0x11, 2), some (.eorSrIndY 0x11, 2),
      some (.mvn 0x11 0x22, 3), some (.eorDpX 0x11, 2), some (.lsrDpX 0x11, 2), some (.eorDpIndLongY 0x11, 2),
      some (.cli, 1), some (.eorAbsY 0x2211, 3), some (.phy, 1), some (.tcd, 1), some (.jmlPcLong 0x332211, 4),
      some (.eorAbsX 0x2211, 3), some (.lsrAbsX 0x2211, 3), some (.eorLongX 0x332211, 4)] := by decide

theorem test_decode_row6 :
    ([0x60, 0x61, 0x62, 0x63, 0x64, 0x65, 0x66, 0x67, 0x68, 0x69, 0x6A, 0x6B, 0x6C, 0x6D, 0x6E, 0x6F] : List Byte).map
        (decoded true true) =
      [some (.rts, 1), some (.adcDpXInd 0x11, 2), some (.per 0x2211, 3), some (.adcSr 0x11, 2),
      some (.stzDp 0x11, 2), some (.adcDp 0x11, 2), some (.rorDp 0x11, 2), some (.adcDpIndLong 0x11, 2),
      some (.pla, 1), some (.adcImmM 0x0011, 2), some (.rorAcc, 1), some (.rtl, 1), some (.jmpPcInd 0x2211, 3),
      some (.adcAbs 0x2211, 3), some (.rorAbs 0x2211, 3), some (.adcLong 0x332211, 4)] := by decide

theorem test_decode_row7 :
    ([0x70, 0x71, 0x72, 0x73, 0x74, 0x75, 0x76, 0x77, 0x78, 0x79, 0x7A, 0x7B, 0x7C, 0x7D, 0x7E, 0x7F] : List Byte).map
        (decoded true true) =
      [some (.bvs 0x11, 2), some (.adcDpIndY 0x11, 2), some (.adcDpInd 0x11, 2), some (.adcSrIndY 0x11, 2),
      some (.stzDpX 0x11, 2), some (.adcDpX 0x11, 2), some (.rorDpX 0x11, 2), some (.adcDpIndLongY 0x11, 2),
      some (.sei, 1), some (.adcAbsY 0x2211, 3), some (.ply, 1), some (.tdc, 1), some (.jmpPcIndX 0x2211, 3),
      some (.adcAbsX 0x2211, 3), some (.rorAbsX 0x2211, 3), some (.adcLongX 0x332211, 4)] := by decide

theorem test_decode_row8 :
    ([0x80, 0x81, 0x82, 0x83, 0x84, 0x85, 0x86, 0x87, 0x88, 0x89, 0x8A, 0x8B, 0x8C, 0x8D, 0x8E, 0x8F] : List Byte).map
        (decoded true true) =
      [some (.bra 0x11, 2), some (.staDpXInd 0x11, 2), some (.brl 0x2211, 3), some (.staSr 0x11, 2),
      some (.styDp 0x11, 2), some (.staDp 0x11, 2), some (.stxDp 0x11, 2), some (.staDpIndLong 0x11, 2),
      some (.dey, 1), some (.bitImmM 0x0011, 2), some (.txa, 1), some (.phb, 1), some (.styAbs 0x2211, 3),
      some (.staAbs 0x2211, 3), some (.stxAbs 0x2211, 3), some (.staLong 0x332211, 4)] := by decide

theorem test_decode_row9 :
    ([0x90, 0x91, 0x92, 0x93, 0x94, 0x95, 0x96, 0x97, 0x98, 0x99, 0x9A, 0x9B, 0x9C, 0x9D, 0x9E, 0x9F] : List Byte).map
        (decoded true true) =
      [some (.bcc 0x11, 2), some (.staDpIndY 0x11, 2), some (.staDpInd 0x11, 2), some (.staSrIndY 0x11, 2),
      some (.styDpX 0x11, 2), some (.staDpX 0x11, 2), some (.stxDpY 0x11, 2), some (.staDpIndLongY 0x11, 2),
      some (.tya, 1), some (.staAbsY 0x2211, 3), some (.txs, 1), some (.txy, 1), some (.stzAbs 0x2211, 3),
      some (.staAbsX 0x2211, 3), some (.stzAbsX 0x2211, 3), some (.staLongX 0x332211, 4)] := by decide

theorem test_decode_rowA :
    ([0xA0, 0xA1, 0xA2, 0xA3, 0xA4, 0xA5, 0xA6, 0xA7, 0xA8, 0xA9, 0xAA, 0xAB, 0xAC, 0xAD, 0xAE, 0xAF] : List Byte).map
        (decoded true true) =
      [some (.ldyImmX 0x0011, 2), some (.ldaDpXInd 0x11, 2), some (.ldxImmX 0x0011, 2), some (.ldaSr 0x11, 2),
      some (.ldyDp 0x11, 2), some (.ldaDp 0x11, 2), some (.ldxDp 0x11, 2), some (.ldaDpIndLong 0x11, 2),
      some (.tay, 1), some (.ldaImmM 0x0011, 2), some (.tax, 1), some (.plb, 1), some (.ldyAbs 0x2211, 3),
      some (.ldaAbs 0x2211, 3), some (.ldxAbs 0x2211, 3), some (.ldaLong 0x332211, 4)] := by decide

theorem test_decode_rowB :
    ([0xB0, 0xB1, 0xB2, 0xB3, 0xB4, 0xB5, 0xB6, 0xB7, 0xB8, 0xB9, 0xBA, 0xBB, 0xBC, 0xBD, 0xBE, 0xBF] : List Byte).map
        (decoded true true) =
      [some (.bcs 0x11, 2), some (.ldaDpIndY 0x11, 2), some (.ldaDpInd 0x11, 2), some (.ldaSrIndY 0x11, 2),
      some (.ldyDpX 0x11, 2), some (.ldaDpX 0x11, 2), some (.ldxDpY 0x11, 2), some (.ldaDpIndLongY 0x11, 2),
      some (.clv, 1), some (.ldaAbsY 0x2211, 3), some (.tsx, 1), some (.tyx, 1), some (.ldyAbsX 0x2211, 3),
      some (.ldaAbsX 0x2211, 3), some (.ldxAbsY 0x2211, 3), some (.ldaLongX 0x332211, 4)] := by decide

theorem test_decode_rowC :
    ([0xC0, 0xC1, 0xC2, 0xC3, 0xC4, 0xC5, 0xC6, 0xC7, 0xC8, 0xC9, 0xCA, 0xCB, 0xCC, 0xCD, 0xCE, 0xCF] : List Byte).map
        (decoded true true) =
      [some (.cpyImmX 0x0011, 2), some (.cmpDpXInd 0x11, 2), some (.rep 0x11, 2), some (.cmpSr 0x11, 2),
      some (.cpyDp 0x11, 2), some (.cmpDp 0x11, 2), some (.decDp 0x11, 2), some (.cmpDpIndLong 0x11, 2),
      some (.iny, 1), some (.cmpImmM 0x0011, 2), some (.dex, 1), some (.wai, 1), some (.cpyAbs 0x2211, 3),
      some (.cmpAbs 0x2211, 3), some (.decAbs 0x2211, 3), some (.cmpLong 0x332211, 4)] := by decide

theorem test_decode_rowD :
    ([0xD0, 0xD1, 0xD2, 0xD3, 0xD4, 0xD5, 0xD6, 0xD7, 0xD8, 0xD9, 0xDA, 0xDB, 0xDC, 0xDD, 0xDE, 0xDF] : List Byte).map
        (decoded true true) =
      [some (.bne 0x11, 2), some (.cmpDpIndY 0x11, 2), some (.cmpDpInd 0x11, 2), some (.cmpSrIndY 0x11, 2),
      some (.pei 0x11, 2), some (.cmpDpX 0x11, 2), some (.decDpX 0x11, 2), some (.cmpDpIndLongY 0x11, 2),
      some (.cld, 1), some (.cmpAbsY 0x2211, 3), some (.phx, 1), some (.stp, 1), some (.jmlPcIndLong 0x2211, 3),
      some (.cmpAbsX 0x2211, 3), some (.decAbsX 0x2211, 3), some (.cmpLongX 0x332211, 4)] := by decide

theorem test_decode_rowE :
    ([0xE0, 0xE1, 0xE2, 0xE3, 0xE4, 0xE5, 0xE6, 0xE7, 0xE8, 0xE9, 0xEA, 0xEB, 0xEC, 0xED, 0xEE, 0xEF] : List Byte).map
        (decoded true true) =
      [some (.cpxImmX 0x0011, 2), some (.sbcDpXInd 0x11, 2), some (.sep 0x11, 2), some (.sbcSr 0x11, 2),
      some (.cpxDp 0x11, 2), some (.sbcDp 0x11, 2), some (.incDp 0x11, 2), some (.sbcDpIndLong 0x11, 2),
      some (.inx, 1), some (.sbcImmM 0x0011, 2), some (.nop, 1), some (.xba, 1), some (.cpxAbs 0x2211, 3),
      some (.sbcAbs 0x2211, 3), some (.incAbs 0x2211, 3), some (.sbcLong 0x332211, 4)] := by decide

theorem test_decode_rowF :
    ([0xF0, 0xF1, 0xF2, 0xF3, 0xF4, 0xF5, 0xF6, 0xF7, 0xF8, 0xF9, 0xFA, 0xFB, 0xFC, 0xFD, 0xFE, 0xFF] : List Byte).map
        (decoded true true) =
      [some (.beq 0x11, 2), some (.sbcDpIndY 0x11, 2), some (.sbcDpInd 0x11, 2), some (.sbcSrIndY 0x11, 2),
      some (.pea 0x2211, 3), some (.sbcDpX 0x11, 2), some (.incDpX 0x11, 2), some (.sbcDpIndLongY 0x11, 2),
      some (.sed, 1), some (.sbcAbsY 0x2211, 3), some (.plx, 1), some (.xce, 1), some (.jsrPcIndX 0x2211, 3),
      some (.sbcAbsX 0x2211, 3), some (.incAbsX 0x2211, 3), some (.sbcLongX 0x332211, 4)] := by decide

/-- The immediate forms where P.M and P.X are 0: two operand bytes, little-endian. -/
theorem test_decode_wide :
    ([0xA9, 0xA2, 0xA0, 0x69, 0xE9, 0x29, 0x09, 0x49, 0xC9, 0xE0, 0xC0, 0x89] : List Byte).map
        (decoded false false) =
      [some (.ldaImmM 0x2211, 3), some (.ldxImmX 0x2211, 3), some (.ldyImmX 0x2211, 3), some (.adcImmM 0x2211, 3),
        some (.sbcImmM 0x2211, 3), some (.andImmM 0x2211, 3), some (.oraImmM 0x2211, 3), some (.eorImmM 0x2211, 3),
        some (.cmpImmM 0x2211, 3), some (.cpxImmX 0x2211, 3), some (.cpyImmX 0x2211, 3), some (.bitImmM 0x2211, 3)] := by decide

/-- Each width flag decides its own family (30_encoding.md R112). -/
theorem test_decode_mixed :
    decoded true false 0xA9 = some (.ldaImmM 0x0011, 2) ∧ decoded true false 0xA2 = some (.ldxImmX 0x2211, 3) ∧
      decoded false true 0xA9 = some (.ldaImmM 0x2211, 3) ∧ decoded false true 0xA2 = some (.ldxImmX 0x0011, 2) := by decide

theorem test_decode_rejects :
    decode true true [] = .error .noOpcode ∧ decode true true [0xAD, 0x00] = .error (.missingOperand 0xAD) := by decide

/-! ## One step -/

/-- The state one step after a state. -/
def after (s : State) : State :=
  match step s with
  | .next t => t
  | .fault _ => s
  | .refused _ => s

/-- The state after reset but for its registers and for the bytes of its fast RAM. -/
def start (r : Regs) (ram : List Host.Cell) : State :=
  { State.reset with regs := r, bus := { State.reset.bus with mem := { fast := ram, slow := [], rom := [] } } }

/-- One step of it. -/
def stepped (r : Regs) (ram : List Host.Cell) : State := after (start r ram)

/-- V1 of 95_test_vectors.md: LDA. -/
theorem test_v1_ldaImmM :
    let t := stepped { Regs.reset with pc := 0x0800, p := Status.ofByte 0x00, e := false }
      [(0x000800, 0xA9), (0x000801, 0x34), (0x000802, 0x12)]
    (t.regs.a, t.regs.p.toByte, t.clock.cyclesSpent) =
      (0x1234, 0x00, 12) := by decide

/-- V4 of 95_test_vectors.md: LDX. -/
theorem test_v4_ldxAbs :
    let t := stepped { Regs.reset with dbr := 0x03, pc := 0x0800, p := Status.ofByte 0x00, e := false }
      [(0x000800, 0xAE), (0x000802, 0x20), (0x032000, 0xCD), (0x032001, 0xAB)]
    (t.regs.x, t.regs.p.toByte, t.clock.cyclesSpent) =
      (0xABCD, 0x80, 14) := by decide

/-- V8 of 95_test_vectors.md: STA. -/
theorem test_v8_staAbs :
    let t := stepped { Regs.reset with a := 0xBEEF, dbr := 0x7E, pc := 0x0800, p := Status.ofByte 0x00, e := false }
      [(0x000800, 0x8D), (0x000802, 0x30)]
    (t.peek 0x7E3000, t.peek 0x7E3001, t.regs.p.toByte, t.clock.cyclesSpent) =
      (0xEF, 0xBE, 0x00, 14) := by decide

/-- V10 of 95_test_vectors.md: STZ. -/
theorem test_v10_stzDpX :
    let t := stepped { Regs.reset with x := 0x0005, d := 0x0200, pc := 0x0800, p := Status.ofByte 0x00, e := false }
      [(0x000215, 0xAA), (0x000216, 0xBB), (0x000800, 0x74), (0x000801, 0x10)]
    (t.peek 0x000215, t.peek 0x000216, t.regs.p.toByte, t.clock.cyclesSpent) =
      (0x00, 0x00, 0x00, 14) := by decide

/-- V11 of 95_test_vectors.md: STX. -/
theorem test_v11_stxDpY :
    let t := stepped { Regs.reset with x := 0x0077, y := 0x0004, pc := 0x0800, p := Status.ofByte 0x30, e := false }
      [(0x000800, 0x96), (0x000801, 0x10)]
    (t.peek 0x000014, t.regs.p.toByte, t.clock.cyclesSpent) =
      (0x77, 0x30, 13) := by decide

/-- V12 of 95_test_vectors.md: LDY. -/
theorem test_v12_ldyAbsX :
    let t := stepped { Regs.reset with x := 0x0020, pc := 0x0800, p := Status.ofByte 0x30, e := false }
      [(0x000800, 0xBC), (0x000801, 0xF0), (0x000802, 0x20), (0x002110, 0x80)]
    (t.regs.y, t.regs.p.toByte, t.clock.cyclesSpent) =
      (0x0080, 0xB0, 14) := by decide

/-- V13 of 95_test_vectors.md: STY. -/
theorem test_v13_styAbs :
    let t := stepped { Regs.reset with y := 0x1234, pc := 0x0800, p := Status.ofByte 0x00, e := false }
      [(0x000800, 0x8C), (0x000801, 0xFE), (0x000802, 0x0F)]
    (t.peek 0x000FFE, t.peek 0x000FFF, t.regs.p.toByte, t.clock.cyclesSpent) =
      (0x34, 0x12, 0x00, 14) := by decide

/-- V34 of 95_test_vectors.md: JMP. -/
theorem test_v34_jmpPcInd :
    let t := stepped { Regs.reset with pc := 0x0800, p := Status.ofByte 0x30, e := false }
      [(0x000800, 0x6C), (0x000801, 0xFF), (0x000802, 0x20), (0x002000, 0x90), (0x002100, 0xA0)]
    (t.regs.pc, t.regs.p.toByte, t.clock.cyclesSpent) =
      (0xA000, 0x30, 14) := by decide

/-- V36 of 95_test_vectors.md: JML. -/
theorem test_v36_jmlPcIndLong :
    let t := stepped { Regs.reset with pbr := 0x02, pc := 0x0800, p := Status.ofByte 0x00, e := false }
      [(0x003000, 0x78), (0x003001, 0x56), (0x003002, 0x34), (0x020800, 0xDC), (0x020802, 0x30)]
    (t.regs.pc, t.regs.pbr, t.regs.p.toByte, t.clock.cyclesSpent) =
      (0x5678, 0x34, 0x00, 15) := by decide

/-- V41 of 95_test_vectors.md: ADC. -/
theorem test_v41_adcImmM :
    let t := stepped { Regs.reset with a := 0x007F, pc := 0x0800, p := Status.ofByte 0x30, e := false }
      [(0x000800, 0x69), (0x000801, 0x01)]
    (t.regs.a, t.regs.p.toByte, t.clock.cyclesSpent) =
      (0x0080, 0xF0, 11) := by decide

/-- V51 of 95_test_vectors.md: SBC. -/
theorem test_v51_sbcImmM :
    let t := stepped { Regs.reset with pc := 0x0800, p := Status.ofByte 0x31, e := false }
      [(0x000800, 0xE9), (0x000801, 0x01)]
    (t.regs.a, t.regs.p.toByte, t.clock.cyclesSpent) =
      (0x00FF, 0xB0, 11) := by decide

/-- V58 of 95_test_vectors.md: AND. -/
theorem test_v58_andImmM :
    let t := stepped { Regs.reset with a := 0x12F0, pc := 0x0800, p := Status.ofByte 0x30, e := false }
      [(0x000800, 0x29), (0x000801, 0x0F)]
    (t.regs.a, t.regs.p.toByte, t.clock.cyclesSpent) =
      (0x1200, 0x32, 11) := by decide

/-- V59 of 95_test_vectors.md: ORA. -/
theorem test_v59_oraImmM :
    let t := stepped { Regs.reset with a := 0x00F0, pc := 0x0800, p := Status.ofByte 0x00, e := false }
      [(0x000800, 0x09), (0x000802, 0x80)]
    (t.regs.a, t.regs.p.toByte, t.clock.cyclesSpent) =
      (0x80F0, 0x80, 12) := by decide

/-- V60 of 95_test_vectors.md: EOR. -/
theorem test_v60_eorImmM :
    let t := stepped { Regs.reset with a := 0x00FF, pc := 0x0800, p := Status.ofByte 0x30, e := false }
      [(0x000800, 0x49), (0x000801, 0xFF)]
    (t.regs.a, t.regs.p.toByte, t.clock.cyclesSpent) =
      (0x0000, 0x32, 11) := by decide

/-- V61 of 95_test_vectors.md: CMP. -/
theorem test_v61_cmpImmM :
    let t := stepped { Regs.reset with a := 0x0040, pc := 0x0800, p := Status.ofByte 0x30, e := false }
      [(0x000800, 0xC9), (0x000801, 0x41)]
    (t.regs.p.toByte, t.clock.cyclesSpent) =
      (0xB0, 11) := by decide

/-- V63 of 95_test_vectors.md: CPX. -/
theorem test_v63_cpxImmX :
    let t := stepped { Regs.reset with x := 0x1000, pc := 0x0800, p := Status.ofByte 0x00, e := false }
      [(0x000800, 0xE0), (0x000802, 0x10)]
    (t.regs.p.toByte, t.clock.cyclesSpent) =
      (0x03, 12) := by decide

/-- V64 of 95_test_vectors.md: CPY. -/
theorem test_v64_cpyImmX :
    let t := stepped { Regs.reset with y := 0x0005, pc := 0x0800, p := Status.ofByte 0x30, e := false }
      [(0x000800, 0xC0), (0x000801, 0x06)]
    (t.regs.p.toByte, t.clock.cyclesSpent) =
      (0xB0, 11) := by decide

/-- V65 of 95_test_vectors.md: BIT. -/
theorem test_v65_bitDp :
    let t := stepped { Regs.reset with a := 0x0001, pc := 0x0800, p := Status.ofByte 0x30, e := false }
      [(0x000010, 0xC0), (0x000800, 0x24), (0x000801, 0x10)]
    (t.regs.p.toByte, t.clock.cyclesSpent) =
      (0xF2, 12) := by decide

/-- V70 of 95_test_vectors.md: ASL. -/
theorem test_v70_aslAcc :
    let t := stepped { Regs.reset with a := 0x1281, pc := 0x0800, p := Status.ofByte 0x30, e := false }
      [(0x000800, 0x0A)]
    (t.regs.a, t.regs.p.toByte, t.clock.cyclesSpent) =
      (0x1202, 0x31, 11) := by decide

/-- V72 of 95_test_vectors.md: LSR. -/
theorem test_v72_lsrAcc :
    let t := stepped { Regs.reset with a := 0x0001, pc := 0x0800, p := Status.ofByte 0x00, e := false }
      [(0x000800, 0x4A)]
    (t.regs.a, t.regs.p.toByte, t.clock.cyclesSpent) =
      (0x0000, 0x03, 11) := by decide

/-- V73 of 95_test_vectors.md: ROL. -/
theorem test_v73_rolAcc :
    let t := stepped { Regs.reset with a := 0x0080, pc := 0x0800, p := Status.ofByte 0x31, e := false }
      [(0x000800, 0x2A)]
    (t.regs.a, t.regs.p.toByte, t.clock.cyclesSpent) =
      (0x0001, 0x31, 11) := by decide

/-- V74 of 95_test_vectors.md: ROR. -/
theorem test_v74_rorDp :
    let t := stepped { Regs.reset with pc := 0x0800, p := Status.ofByte 0x31, e := false }
      [(0x000010, 0x01), (0x000800, 0x66), (0x000801, 0x10)]
    (t.peek 0x000010, t.regs.p.toByte, t.clock.cyclesSpent) =
      (0x80, 0xB1, 14) := by decide

/-- V76 of 95_test_vectors.md: INC. -/
theorem test_v76_incAcc :
    let t := stepped { Regs.reset with a := 0x12FF, pc := 0x0800, p := Status.ofByte 0x71, e := false }
      [(0x000800, 0x1A)]
    (t.regs.a, t.regs.p.toByte, t.clock.cyclesSpent) =
      (0x1200, 0x73, 11) := by decide

/-- V78 of 95_test_vectors.md: DEC. -/
theorem test_v78_decDp :
    let t := stepped { Regs.reset with pc := 0x0800, p := Status.ofByte 0x30, e := false }
      [(0x000800, 0xC6), (0x000801, 0x10)]
    (t.peek 0x000010, t.regs.p.toByte, t.clock.cyclesSpent) =
      (0xFF, 0xB0, 14) := by decide

/-- V79 of 95_test_vectors.md: TSB. -/
theorem test_v79_tsbDp :
    let t := stepped { Regs.reset with a := 0x000F, pc := 0x0800, p := Status.ofByte 0x30, e := false }
      [(0x000010, 0xF0), (0x000800, 0x04), (0x000801, 0x10)]
    (t.peek 0x000010, t.regs.p.toByte, t.clock.cyclesSpent) =
      (0xFF, 0x32, 14) := by decide

/-- V80 of 95_test_vectors.md: TRB. -/
theorem test_v80_trbAbs :
    let t := stepped { Regs.reset with a := 0x00FF, pc := 0x0800, p := Status.ofByte 0x00, e := false }
      [(0x000800, 0x1C), (0x000802, 0x20), (0x002000, 0xFF), (0x002001, 0xFF)]
    (t.peek 0x002001, t.peek 0x002000, t.regs.p.toByte, t.clock.cyclesSpent) =
      (0xFF, 0x00, 0x00, 17) := by decide

/-- V81 of 95_test_vectors.md: INX. -/
theorem test_v81_inx :
    let t := stepped { Regs.reset with x := 0x00FF, pc := 0x0800, p := Status.ofByte 0x30, e := false }
      [(0x000800, 0xE8)]
    (t.regs.x, t.regs.p.toByte, t.clock.cyclesSpent) =
      (0x0000, 0x32, 11) := by decide

/-- V83 of 95_test_vectors.md: DEY. -/
theorem test_v83_dey :
    let t := stepped { Regs.reset with pc := 0x0800, p := Status.ofByte 0x00, e := false }
      [(0x000800, 0x88)]
    (t.regs.y, t.regs.p.toByte, t.clock.cyclesSpent) =
      (0xFFFF, 0x80, 11) := by decide

/-- V84 of 95_test_vectors.md: DEX. -/
theorem test_v84_dex :
    let t := stepped { Regs.reset with x := 0x0001, pc := 0x0800, p := Status.ofByte 0x30, e := false }
      [(0x000800, 0xCA)]
    (t.regs.x, t.regs.p.toByte, t.clock.cyclesSpent) =
      (0x0000, 0x32, 11) := by decide

/-- V90 of 95_test_vectors.md: TAX. -/
theorem test_v90_tax :
    let t := stepped { Regs.reset with a := 0x1280, pc := 0x0800, p := Status.ofByte 0x10, e := false }
      [(0x000800, 0xAA)]
    (t.regs.x, t.regs.p.toByte, t.clock.cyclesSpent) =
      (0x0080, 0x90, 11) := by decide

/-- V91 of 95_test_vectors.md: TXA. -/
theorem test_v91_txa :
    let t := stepped { Regs.reset with a := 0x1200, x := 0xABCD, pc := 0x0800, p := Status.ofByte 0x20, e := false }
      [(0x000800, 0x8A)]
    (t.regs.a, t.regs.p.toByte, t.clock.cyclesSpent) =
      (0x12CD, 0xA0, 11) := by decide

/-- V93 of 95_test_vectors.md: TXS. -/
theorem test_v93_txs :
    let t := stepped { Regs.reset with x := 0x0080, pc := 0x0800, p := Status.ofByte 0x30 }
      [(0x000800, 0x9A)]
    (t.regs.s, t.regs.p.toByte, t.clock.cyclesSpent) =
      (0x0180, 0x30, 11) := by decide

/-- V95 of 95_test_vectors.md: TSX. -/
theorem test_v95_tsx :
    let t := stepped { Regs.reset with pc := 0x0800, p := Status.ofByte 0x30, e := false }
      [(0x000800, 0xBA)]
    (t.regs.x, t.regs.p.toByte, t.clock.cyclesSpent) =
      (0x00FF, 0xB0, 11) := by decide

/-- V96 of 95_test_vectors.md: TCD. -/
theorem test_v96_tcd :
    let t := stepped { Regs.reset with a := 0x8000, pc := 0x0800, p := Status.ofByte 0x30, e := false }
      [(0x000800, 0x5B)]
    (t.regs.d, t.regs.p.toByte, t.clock.cyclesSpent) =
      (0x8000, 0xB0, 11) := by decide

/-- V97 of 95_test_vectors.md: TSC. -/
theorem test_v97_tsc :
    let t := stepped { Regs.reset with a := 0xFFFF, pc := 0x0800, p := Status.ofByte 0x30, e := false }
      [(0x000800, 0x3B)]
    (t.regs.a, t.regs.p.toByte, t.clock.cyclesSpent) =
      (0x01FF, 0x30, 11) := by decide

/-- V98 of 95_test_vectors.md: TCS. -/
theorem test_v98_tcs :
    let t := stepped { Regs.reset with a := 0x2345, pc := 0x0800, p := Status.ofByte 0x30 }
      [(0x000800, 0x1B)]
    (t.regs.s, t.regs.p.toByte, t.clock.cyclesSpent) =
      (0x0145, 0x30, 11) := by decide

/-- V99 of 95_test_vectors.md: XBA. -/
theorem test_v99_xba :
    let t := stepped { Regs.reset with a := 0x8001, pc := 0x0800, p := Status.ofByte 0x30, e := false }
      [(0x000800, 0xEB)]
    (t.regs.a, t.regs.p.toByte, t.clock.cyclesSpent) =
      (0x0180, 0xB0, 12) := by decide

/-- V100 of 95_test_vectors.md: TXY. -/
theorem test_v100_txy :
    let t := stepped { Regs.reset with x := 0x8000, pc := 0x0800, p := Status.ofByte 0x00, e := false }
      [(0x000800, 0x9B)]
    (t.regs.y, t.regs.p.toByte, t.clock.cyclesSpent) =
      (0x8000, 0x80, 11) := by decide

/-- V101 of 95_test_vectors.md: TDC. -/
theorem test_v101_tdc :
    let t := stepped { Regs.reset with a := 0x1111, pc := 0x0800, p := Status.ofByte 0x30, e := false }
      [(0x000800, 0x7B)]
    (t.regs.a, t.regs.p.toByte, t.clock.cyclesSpent) =
      (0x0000, 0x32, 11) := by decide

/-- V112 of 95_test_vectors.md: PHA. -/
theorem test_v112_pha :
    let t := stepped { Regs.reset with a := 0x0055, s := 0x0100, pc := 0x0800, p := Status.ofByte 0x30 }
      [(0x000800, 0x48)]
    (t.regs.s, t.peek 0x000100, t.regs.p.toByte, t.clock.cyclesSpent) =
      (0x01FF, 0x55, 0x30, 12) := by decide

/-- V113 of 95_test_vectors.md: PLA. -/
theorem test_v113_pla :
    let t := stepped { Regs.reset with pc := 0x0800, p := Status.ofByte 0x30 }
      [(0x000100, 0x80), (0x000200, 0x11), (0x000800, 0x68)]
    (t.regs.a, t.regs.s, t.regs.p.toByte, t.clock.cyclesSpent) =
      (0x0080, 0x0100, 0xB0, 13) := by decide

/-- V115 of 95_test_vectors.md: PLP. -/
theorem test_v115_plp :
    let t := stepped { Regs.reset with s := 0x01FE, pc := 0x0800, p := Status.ofByte 0x30 }
      [(0x000800, 0x28)]
    (t.regs.s, t.regs.p.toByte, t.clock.cyclesSpent) =
      (0x01FF, 0x30, 13) := by decide

/-- V117 of 95_test_vectors.md: PHD. -/
theorem test_v117_phd :
    let t := stepped { Regs.reset with s := 0x0100, d := 0x1234, pc := 0x0800, p := Status.ofByte 0x30 }
      [(0x000800, 0x0B)]
    (t.regs.s, t.peek 0x000100, t.peek 0x0000FF, t.regs.p.toByte, t.clock.cyclesSpent) =
      (0x01FE, 0x12, 0x34, 0x30, 13) := by decide

/-- V118 of 95_test_vectors.md: PLD. -/
theorem test_v118_pld :
    let t := stepped { Regs.reset with pc := 0x0800, p := Status.ofByte 0x30 }
      [(0x000100, 0x11), (0x000101, 0x11), (0x000200, 0x34), (0x000201, 0x92), (0x000800, 0x2B)]
    (t.regs.s, t.regs.d, t.regs.p.toByte, t.clock.cyclesSpent) =
      (0x0101, 0x9234, 0xB0, 14) := by decide

/-- V120 of 95_test_vectors.md: PHK. -/
theorem test_v120_phk :
    let t := stepped { Regs.reset with pbr := 0x05, pc := 0x0800, p := Status.ofByte 0x30, e := false }
      [(0x050800, 0x4B)]
    (t.regs.s, t.peek 0x0001FF, t.regs.p.toByte, t.clock.cyclesSpent) =
      (0x01FE, 0x05, 0x30, 12) := by decide

/-- V121 of 95_test_vectors.md: PEA. -/
theorem test_v121_pea :
    let t := stepped { Regs.reset with pc := 0x0800, p := Status.ofByte 0x30, e := false }
      [(0x000800, 0xF4), (0x000801, 0x34), (0x000802, 0x12)]
    (t.regs.s, t.peek 0x0001FF, t.peek 0x0001FE, t.regs.p.toByte, t.clock.cyclesSpent) =
      (0x01FD, 0x12, 0x34, 0x30, 14) := by decide

/-- V122 of 95_test_vectors.md: PEI. -/
theorem test_v122_pei :
    let t := stepped { Regs.reset with d := 0x0100, pc := 0x0800, p := Status.ofByte 0x30, e := false }
      [(0x000110, 0xCD), (0x000111, 0xAB), (0x000800, 0xD4), (0x000801, 0x10)]
    (t.regs.s, t.peek 0x0001FF, t.peek 0x0001FE, t.regs.p.toByte, t.clock.cyclesSpent) =
      (0x01FD, 0xAB, 0xCD, 0x30, 15) := by decide

/-- V123 of 95_test_vectors.md: PER. -/
theorem test_v123_per :
    let t := stepped { Regs.reset with pc := 0x0800, p := Status.ofByte 0x30, e := false }
      [(0x000800, 0x62), (0x000801, 0xFD), (0x000802, 0xFF)]
    (t.regs.s, t.peek 0x0001FF, t.peek 0x0001FE, t.regs.p.toByte, t.clock.cyclesSpent) =
      (0x01FD, 0x08, 0x00, 0x30, 15) := by decide

/-- V130 of 95_test_vectors.md: BEQ. -/
theorem test_v130_beq :
    let t := stepped { Regs.reset with pc := 0x0800, p := Status.ofByte 0x32, e := false }
      [(0x000800, 0xF0), (0x000801, 0x7F)]
    (t.regs.pc, t.regs.p.toByte, t.clock.cyclesSpent) =
      (0x0881, 0x32, 12) := by decide

/-- V131 of 95_test_vectors.md: BNE. -/
theorem test_v131_bne :
    let t := stepped { Regs.reset with pc := 0x0800, p := Status.ofByte 0x30, e := false }
      [(0x000800, 0xD0), (0x000801, 0x80)]
    (t.regs.pc, t.regs.p.toByte, t.clock.cyclesSpent) =
      (0x0782, 0x30, 12) := by decide

/-- V133 of 95_test_vectors.md: BRA. -/
theorem test_v133_bra :
    let t := stepped { Regs.reset with pc := 0x08F0, p := Status.ofByte 0x30 }
      [(0x0008F0, 0x80), (0x0008F1, 0x10)]
    (t.regs.pc, t.regs.p.toByte, t.clock.cyclesSpent) =
      (0x0902, 0x30, 13) := by decide

/-- V135 of 95_test_vectors.md: BRL. -/
theorem test_v135_brl :
    let t := stepped { Regs.reset with pc := 0x0800, p := Status.ofByte 0x30, e := false }
      [(0x000800, 0x82), (0x000801, 0xFF), (0x000802, 0x7F)]
    (t.regs.pc, t.regs.p.toByte, t.clock.cyclesSpent) =
      (0x8802, 0x30, 13) := by decide

/-- V139 of 95_test_vectors.md: JSR. -/
theorem test_v139_jsrPcAbs :
    let t := stepped { Regs.reset with pc := 0x0800, p := Status.ofByte 0x30 }
      [(0x000800, 0x20), (0x000801, 0x34), (0x000802, 0x12)]
    (t.regs.s, t.peek 0x0001FF, t.peek 0x0001FE, t.regs.pc, t.regs.p.toByte, t.clock.cyclesSpent) =
      (0x01FD, 0x08, 0x02, 0x1234, 0x30, 15) := by decide

/-- V141 of 95_test_vectors.md: JSL. -/
theorem test_v141_jsl :
    let t := stepped { Regs.reset with pc := 0x0800, p := Status.ofByte 0x30, e := false }
      [(0x000800, 0x22), (0x000801, 0x78), (0x000802, 0x56), (0x000803, 0x34)]
    (t.regs.s, t.peek 0x0001FF, t.peek 0x0001FE, t.regs.pc, t.regs.pbr, t.regs.p.toByte, t.clock.cyclesSpent) =
      (0x01FC, 0x00, 0x08, 0x5678, 0x34, 0x30, 17) := by decide

/-- V145 of 95_test_vectors.md: RTS. -/
theorem test_v145_rts :
    let t := stepped { Regs.reset with s := 0x01FD, pc := 0x0800, p := Status.ofByte 0x30, e := false }
      [(0x0001FE, 0xFF), (0x0001FF, 0xFF), (0x000800, 0x60)]
    (t.regs.s, t.regs.pc, t.regs.p.toByte, t.clock.cyclesSpent) =
      (0x01FF, 0x0000, 0x30, 15) := by decide

/-- V150 of 95_test_vectors.md: REP. -/
theorem test_v150_rep :
    let t := stepped { Regs.reset with x := 0x0012, pc := 0x0800, p := Status.ofByte 0x34, e := false }
      [(0x000800, 0xC2), (0x000801, 0x30)]
    (t.regs.p.toByte, t.clock.cyclesSpent) =
      (0x04, 12) := by decide

/-- V152 of 95_test_vectors.md: SEP. -/
theorem test_v152_sep :
    let t := stepped { Regs.reset with a := 0x1234, x := 0x1234, y := 0x5678, pc := 0x0800, p := Status.ofByte 0x00, e := false }
      [(0x000800, 0xE2), (0x000801, 0x30)]
    (t.regs.x, t.regs.y, t.regs.p.toByte, t.clock.cyclesSpent) =
      (0x0034, 0x0078, 0x30, 12) := by decide

/-- V155 of 95_test_vectors.md: XCE. -/
theorem test_v155_xce :
    let t := stepped { Regs.reset with pc := 0x0800, p := Status.ofByte 0x31 }
      [(0x000800, 0xFB)]
    (t.regs.p.toByte, t.clock.cyclesSpent) =
      (0x31, 11) := by decide

/-- V156 of 95_test_vectors.md: WDM. -/
theorem test_v156_wdm :
    let t := stepped { Regs.reset with pc := 0x0800, p := Status.ofByte 0x30, e := false }
      [(0x000800, 0x42), (0x000801, 0xFF)]
    (t.regs.p.toByte, t.clock.cyclesSpent) =
      (0x30, 11) := by decide

/-- V157 of 95_test_vectors.md: NOP. -/
theorem test_v157_nop :
    let t := stepped { Regs.reset with pc := 0x0800, p := Status.ofByte 0x30, e := false }
      [(0x000800, 0xEA)]
    (t.regs.p.toByte, t.clock.cyclesSpent) =
      (0x30, 11) := by decide

/-- V162 of 95_test_vectors.md: MVN. -/
theorem test_v162_mvn :
    let t := stepped { Regs.reset with a := 0xFFFF, pc := 0x0800, p := Status.ofByte 0x00, e := false }
      [(0x000800, 0x54), (0x000801, 0x02), (0x000802, 0x01), (0x010000, 0x77)]
    (t.regs.a, t.regs.x, t.regs.y, t.peek 0x020000, t.regs.p.toByte, t.clock.cyclesSpent) =
      (0xFFFE, 0x0001, 0x0001, 0x77, 0x00, 16) := by decide

/-- V172 of 95_test_vectors.md: BRK. -/
theorem test_v172_brk :
    let t := stepped { Regs.reset with pbr := 0x03, pc := 0x0800, p := Status.ofByte 0x09, e := false }
      [(0x00FFE7, 0x80)]
    (t.regs.s, t.peek 0x0001FF, t.peek 0x0001FE, t.regs.pc, t.regs.pbr, t.regs.p.toByte, t.clock.cyclesSpent) =
      (0x01FB, 0x03, 0x08, 0x8000, 0x00, 0x05, 17) := by decide

/-- V173 of 95_test_vectors.md: COP. -/
theorem test_v173_cop :
    let t := stepped { Regs.reset with pc := 0x0800, p := Status.ofByte 0x30 }
      [(0x000800, 0x02), (0x00FFF5, 0x70)]
    (t.regs.s, t.peek 0x0001FF, t.peek 0x0001FE, t.regs.pc, t.regs.p.toByte, t.clock.cyclesSpent) =
      (0x01FC, 0x08, 0x02, 0x7000, 0x34, 16) := by decide

/-- V174 of 95_test_vectors.md: RTI. -/
theorem test_v174_rti :
    let t := stepped { Regs.reset with s := 0x01FC, pc := 0x0800, p := Status.ofByte 0x34 }
      [(0x0001FE, 0x34), (0x0001FF, 0x12), (0x000800, 0x40)]
    (t.regs.s, t.regs.pc, t.regs.p.toByte, t.clock.cyclesSpent) =
      (0x01FF, 0x1234, 0x30, 15) := by decide

/-- Taken and not taken, by each flag (46_flow.md R311 to R318): with N, V, Z, C clear, then set. -/
theorem test_branches :
    ([0x10, 0x50, 0x90, 0xD0, 0x30, 0x70, 0xB0, 0xF0] : List Byte).map (fun op =>
        (stepped { Regs.reset with pc := 0x0800, p := Status.ofByte 0x30 } [(0x000800, op), (0x000801, 0x80)]).regs.pc) =
      [0x0782, 0x0782, 0x0782, 0x0782, 0x0802, 0x0802, 0x0802, 0x0802] ∧
    ([0x10, 0x50, 0x90, 0xD0, 0x30, 0x70, 0xB0, 0xF0] : List Byte).map (fun op =>
        (stepped { Regs.reset with pc := 0x0800, p := Status.ofByte 0xF3 } [(0x000800, op), (0x000801, 0x7F)]).regs.pc) =
      [0x0802, 0x0802, 0x0802, 0x0802, 0x0881, 0x0881, 0x0881, 0x0881] := by decide

/-- CLC, CLI, CLV, CLD, then SEC, SEI, SED: one bit of P each (47_flags_mode.md R340 to R346). -/
theorem test_flag_instructions :
    ([0x18, 0x58, 0xB8, 0xD8] : List Byte).map (fun op =>
        (stepped { Regs.reset with pc := 0x0800, p := Status.ofByte 0xFF } [(0x000800, op)]).regs.p.toByte) =
      [0xFE, 0xFB, 0xBF, 0xF7] ∧
    ([0x38, 0x78, 0xF8] : List Byte).map (fun op =>
        (stepped { Regs.reset with pc := 0x0800, p := Status.ofByte 0x30 } [(0x000800, op)]).regs.p.toByte) =
      [0x31, 0x34, 0x38] := by decide

/-- INY wraps at 16 bits and sets Z (43_rmw.md R250). -/
theorem test_iny :
    let t := stepped { Regs.reset with y := 0xFFFF, pc := 0x0800, p := Status.ofByte 0x80, e := false } [(0x000800, 0xC8)]
    (t.regs.y, t.regs.p.toByte) = (0x0000, 0x02) := by decide

/-- TAY at an 8-bit index width takes A.l (44_transfer.md R261). -/
theorem test_tay :
    let t := stepped { Regs.reset with a := 0x8012, pc := 0x0800, p := Status.ofByte 0x12, e := false } [(0x000800, 0xA8)]
    (t.regs.y, t.regs.p.toByte) = (0x0012, 0x10) := by decide

/-- TYA at an 8-bit accumulator width keeps A.h (44_transfer.md R263). -/
theorem test_tya :
    let t := stepped { Regs.reset with a := 0x8012, y := 0x00FF, pc := 0x0800, p := Status.ofByte 0x30 } [(0x000800, 0x98)]
    (t.regs.a, t.regs.p.toByte) = (0x80FF, 0xB0) := by decide

/-- TYX at a 16-bit index width (44_transfer.md R267). -/
theorem test_tyx :
    let t := stepped { Regs.reset with y := 0x8000, pc := 0x0800, p := Status.ofByte 0x20, e := false } [(0x000800, 0xBB)]
    (t.regs.x, t.regs.p.toByte) = (0x8000, 0xA0) := by decide

/-- PHB and PHP push one byte; PHX at 16 bits pushes the high byte first; PHY at 8 bits one byte (45_stack.md R287, R289,
R291, R293). -/
theorem test_pushes :
    (stepped { Regs.reset with dbr := 0x7E, pc := 0x0800 } [(0x000800, 0x8B)]).peek 0x0001FF = 0x7E ∧
    (stepped { Regs.reset with pc := 0x0800, p := Status.ofByte 0xB1 } [(0x000800, 0x08)]).peek 0x0001FF = 0xB1 ∧
    (let t := stepped { Regs.reset with x := 0x1234, pc := 0x0800, p := Status.ofByte 0x00, e := false } [(0x000800, 0xDA)]
     (t.peek 0x0001FF, t.peek 0x0001FE, t.regs.s) = (0x12, 0x34, 0x01FD)) ∧
    (let t := stepped { Regs.reset with y := 0x0056, pc := 0x0800 } [(0x000800, 0x5A)]
     (t.peek 0x0001FF, t.regs.s) = (0x56, 0x01FE)) := by decide

/-- PLB, PLX and PLY (45_stack.md R288, R290, R294). -/
theorem test_pulls :
    (let t := stepped { Regs.reset with s := 0x01FE, pc := 0x0800 } [(0x0001FF, 0x80), (0x000800, 0xAB)]
     (t.regs.dbr, t.regs.s, t.regs.p.n) = (0x80, 0x01FF, true)) ∧
    (let t := stepped { Regs.reset with s := 0x01FD, pc := 0x0800, p := Status.ofByte 0x00, e := false }
        [(0x0001FE, 0x34), (0x0001FF, 0x12), (0x000800, 0xFA)]
     (t.regs.x, t.regs.s) = (0x1234, 0x01FF)) ∧
    (let t := stepped { Regs.reset with s := 0x01FF, y := 0x0001, pc := 0x0800 } [(0x000100, 0x77), (0x000800, 0x7A)]
     (t.regs.y, t.regs.s) = (0x0077, 0x0100)) := by decide

/-- RTL pulls the offset, adds 1, and pulls the bank (46_flow.md R326). -/
theorem test_rtl :
    let t := stepped { Regs.reset with s := 0x01FC, pc := 0x0800, e := false }
      [(0x0001FD, 0x34), (0x0001FE, 0x12), (0x0001FF, 0x05), (0x000800, 0x6B)]
    (t.regs.pc, t.regs.pbr, t.regs.s) = (0x1235, 0x05, 0x01FF) := by decide

/-- The last byte of an MVP: PC moves on, DBR is the destination bank (48_block_move.md R362). -/
theorem test_mvp :
    let t := stepped { Regs.reset with x := 0x1000, y := 0x2000, pc := 0x0800, p := Status.ofByte 0x00, e := false }
      [(0x000800, 0x44), (0x000801, 0x02), (0x000802, 0x01), (0x011000, 0x5A)]
    (t.regs.x, t.regs.y, t.regs.a, t.regs.pc, t.regs.dbr, t.peek 0x022000) =
      (0x0FFF, 0x1FFF, 0xFFFF, 0x0803, 0x02, 0x5A) := by decide

/-- WAI and STP (49_system.md R373, R374). -/
theorem test_wai_stp :
    (stepped { Regs.reset with pc := 0x0800 } [(0x000800, 0xCB)]).pins.readyOut = false ∧
      (stepped { Regs.reset with pc := 0x0800 } [(0x000800, 0xDB)]).pins.enabled = false := by decide

/-- The quirk of PHD in emulation mode: 00:0100 and 00:00FF are written, S ends at 0x01FE (45_stack.md R283). -/
theorem test_phd_quirk :
    let t := stepped { Regs.reset with s := 0x0100, d := 0x1234, pc := 0x0800 } [(0x000800, 0x0B)]
    (t.peek 0x000100, t.peek 0x0000FF, t.regs.s) = (0x12, 0x34, 0x01FE) := by decide

/-- PEA, which the quirk set does not hold, stays in page 0x01 (45_stack.md R283). -/
theorem test_pea_stays :
    let t := stepped { Regs.reset with s := 0x0100, pc := 0x0800 } [(0x000800, 0xF4), (0x000801, 0x34), (0x000802, 0x12)]
    (t.peek 0x000100, t.peek 0x0001FF, t.regs.s) = (0x12, 0x34, 0x01FE) := by decide

/-- An IRQ in emulation mode: bit 4 of the pushed byte is clear, the vector is 00:FFFE (60_exceptions.md R390 to R392). -/
theorem test_irq_emulation :
    let s := start { Regs.reset with pc := 0x0800, p := Status.ofByte 0x38 } [(0x00FFFE, 0x00), (0x00FFFF, 0x90)]
    let t := after (s.setIrq true)
    (t.regs.pc, t.regs.p.toByte, t.peek 0x0001FF, t.peek 0x0001FE, t.peek 0x0001FD, t.regs.s) =
      (0x9000, 0x34, 0x08, 0x00, 0x28, 0x01FC) := by decide

/-- An NMI in native mode: PBR is pushed too, the vector is 00:FFEA, P.I does not mask it (60_exceptions.md R385, R391). -/
theorem test_nmi_native :
    let s := start { Regs.reset with pbr := 0x05, pc := 0x1234, p := Status.ofByte 0x04, e := false } [(0x00FFEB, 0xA0)]
    let t := after (s.setNmi true)
    (t.regs.pc, t.regs.pbr, t.peek 0x0001FF, t.peek 0x0001FE, t.peek 0x0001FD, t.peek 0x0001FC) =
      (0xA000, 0x00, 0x05, 0x12, 0x34, 0x04) := by decide

/-- Scenario 6 in short: reset asserted, one held step, released, the sequence (70_reset_and_hazards.md R434). -/
theorem test_reset :
    let s := start { Regs.reset with a := 0x1234, pbr := 0x05, pc := 0x0800, p := Status.ofByte 0x08, e := false }
      [(0x00FFFC, 0x00), (0x00FFFD, 0xC0)]
    let t := after (after s.assertReset).releaseReset
    (t.regs.pc, t.regs.pbr, t.regs.a, t.regs.p.toByte, t.regs.e) = (0xC000, 0x00, 0x1234, 0x34, true) := by decide

/-! ## The host port (20_memory.md R82, R97) -/

/-- A data record and the end record; a wrong checksum loads nothing. -/
theorem test_intel_hex :
    (State.reset.loadIntelHex [':', '0', '2', '1', '0', '0', '0', '0', '0', 'A', '9', '4', '2', '0', '3', '\n', ':', '0',
        '0', '0', '0', '0', '0', '0', '1', 'F', 'F'] 0x02).map (fun s => s.peekBytes 0x02 0x1000 2) = some [0xA9, 0x42] ∧
      State.reset.loadIntelHex [':', '0', '2', '1', '0', '0', '0', '0', '0', 'A', '9', '4', '2', '0', '4'] 0x02 = none := by
  decide

/-- A legal platform: page 0xFF of bank 0x00 reads as page 0x00 of the ROM image, the slow step is 3, an IRQ stands. -/
def romPlatform : Platform :=
  { banks := [], pages := [{ dir := .read, bank := 0x00, page := 0xFF, target := some (.mem ⟨.rom 0x00, 0x00⟩ true none) }]
    fastStep := 1, slowStep := 3, speedGate := false
    powerOn := { regs := { Regs.reset with pc := 0x4321 }, readyOut := false, irqbIn := false, enabled := true, nmiPending := true }
    params := Config.defaults }

theorem test_initialize_errors :
    (initializeCore romPlatform none [] [] 256 = .error (-1)) ∧ (initializeCore romPlatform (some []) [] [] 3 = .error (-2)) ∧
      (initializeCore romPlatform (some []) [] [] 257 = .error (-2)) := by decide

/-- What `initialize` gives: the ROM image where it is mapped, slow RAM, no fast bank 5 among four, the steps, the draw of the
power-on state (70_reset_and_hazards.md R431). -/
theorem test_initialize :
    (initializeCore romPlatform (some [0x11, 0x22]) [0x77] [] 4).toOption.map (fun s =>
      ([s.peek 0x00FF01, s.peek 0xE00000, lowByte s.regs.pc], s.resolve .read 0x050000, s.clock.slowStep, s.pins)) =
        some ([0x22, 0x77, 0x21], .empty, 3,
          { resbIn := false, irqbIn := false, nmiPending := true, readyOut := false, enabled := true, coarse := .reset,
            resetHold := none }) := by decide

/-- The platform of the test is legal. -/
theorem witness_initializeCore_inv : romPlatform.Legal :=
  ⟨by decide, by decide, ⟨fun _ => ⟨rfl, rfl, by decide⟩, fun _ => ⟨by decide, by decide⟩⟩⟩

/-- By hand from 42_alu.md R213, R214 and R217: 58 + 46 + 1 = 105 with V by either value of `DECIMAL_V` (r' = A5), the spec's
10 - 01, and 0F + 0F, whose digits are not valid. -/
theorem test_decimal :
    (let q := addDecimal .final (0x58#8) 0x46 true
     (q.result, q.carry, q.overflow) = (0x05, true, false)) ∧
    (let q := addDecimal .preHighAdjust (0x58#8) 0x46 true
     (q.result, q.carry, q.overflow) = (0x05, true, true)) ∧
    (subDecimal .final (0x10#8) 0x01 true).result = 0x09 ∧ (addDecimal .final (0x0F#8) 0x0F false).result = 0x14 := by
  decide

/-! ## States for the statements -/

/-- The state after reset with other registers. -/
def withRegs (r : Regs) : State := { State.reset with regs := r }

/-- The state after reset with other pins. -/
def withPins (f : Pins → Pins) : State := { State.reset with pins := f State.reset.pins }

/-- Native mode, all flags of P clear but I. -/
def native : Regs := { Regs.reset with p := Status.ofByte 0x04, e := false }

theorem flat_withRegs (r : Regs) : (withRegs r).Flat := ⟨rfl, rfl, rfl, rfl⟩

theorem flat_withPins (f : Pins → Pins) : (withPins f).Flat := ⟨rfl, rfl, rfl, rfl⟩

theorem flat_start (r : Regs) (ram : List Host.Cell) : (start r ram).Flat := ⟨rfl, rfl, rfl, rfl⟩

/-- The state after reset with one page mapping entry, for reads and for writes, at page 0x20 of bank 0x00. -/
def mapped (t : Target) : State :=
  { State.reset with bus := { State.reset.bus with readPages := [(0x20, t)], writePages := [(0x20, t)] } }

/-- A platform with an I/O page, page 0x20 of bank 0x00, the registers being `r`. -/
def gated (r : Regs) : State := { mapped .io with regs := r }

/-- Native mode; the page D reaches ends right below the I/O page, and three bytes pushed end right above it. -/
def edge : Regs := { native with s := 0x2102, d := 0x1F00, x := 0x0000, y := 0x0000, pc := 0x1FFE }

/-! ## Witnesses -/

theorem witness_DecodeEncode :
    (Instr.ldaImmM 0x00FF).wellFormed true false = true ∧ (Instr.ldxImmX 0xFFFF).wellFormed true false = true ∧
      (Instr.mvn 0x02 0x01).wellFormed true true = true := by decide

theorem witness_EncodeDecode : decode true true [0xA9, 0xFF, 0xEA] = .ok (.ldaImmM 0x00FF, [0xEA]) := by decide

theorem fetching_reset : State.reset.Fetching := ⟨⟨rfl, by decide, rfl, .inl rfl⟩, rfl, .inl rfl⟩

/-- The two bytes of a BRK at the last two addresses below an I/O page; also where an IRQ stands but P.I is set. -/
theorem witness_StepRunsDecoded :
    ((gated edge).Fetching ∧ (gated edge).OffIo .read (bytesAddrs 0x00 0x1FFE 2) ∧
      ∃ b b', decode false false ((gated edge).peekBytes 0x00 0x1FFE 4) = .ok (.brk 0x00, [b, b'])) ∧
      (withPins fun p => { p with irqbIn := false }).Fetching :=
  ⟨⟨⟨⟨rfl, by decide, rfl, .inl rfl⟩, rfl, .inl rfl⟩, by simp only [State.offIo_iff]; decide, _, _, rfl⟩,
    ⟨rfl, by decide, rfl, .inl rfl⟩, rfl, .inr rfl⟩

/-- One state for each clause, with an I/O page right below the frame; in the last an IRQ stands and is masked. -/
theorem witness_RequestPriority :
    (withPins fun p => { p with resbIn := false, irqbIn := false, nmiPending := true }).pins.resbIn = false ∧
    (let s : State := { gated { edge with s := 0x2103 } with
        pins := { State.reset.pins with irqbIn := false, nmiPending := true } }
     s.EntryOffIo .nmi ∧ s.Running ∧ s.pins.nmiPending = true) ∧
    (let s : State := { gated { edge with s := 0x2103, p := Status.ofByte 0x00 } with
        pins := { State.reset.pins with irqbIn := false, readyOut := false } }
     s.EntryOffIo .irq ∧ s.Running ∧ s.pins.nmiPending = false ∧ s.pins.irqbIn = false ∧ s.regs.p.i = false) ∧
    (let s := withPins fun p => { p with irqbIn := false }
     s.Running ∧ s.pins.nmiPending = false ∧ s.regs.p.i = true) :=
  ⟨rfl, ⟨by simp only [State.EntryOffIo, State.offIo_iff]; decide, ⟨rfl, by decide, rfl, .inl rfl⟩, rfl⟩,
    ⟨by simp only [State.EntryOffIo, State.offIo_iff]; decide, ⟨rfl, by decide, rfl, .inr (by decide)⟩, rfl, rfl, rfl⟩,
    ⟨rfl, by decide, rfl, .inl rfl⟩, rfl, rfl⟩

/-- Waiting with no cause to wake, and with a masked IRQ; held in reset. -/
theorem witness_Waiting :
    (let s := withPins fun p => { p with readyOut := false }
     s.pins.resbIn = true ∧ s.pins.coarse ≠ .reset ∧ s.pins.enabled = true ∧ s.pins.readyOut = false ∧
        s.pins.nmiPending = false ∧ s.pins.irqbIn = true) ∧
    (let s := withPins fun p => { p with readyOut := false, irqbIn := false }
     s.pins.readyOut = false ∧ s.pins.irqbIn = false ∧ s.regs.p.i = true ∧ s.params.waiWakeOnMaskedIrq = true) ∧
    (withPins fun p => { p with resbIn := false, readyOut := false }).pins.resbIn = false := by decide

theorem witness_Stopped :
    (let s := withPins fun p => { p with enabled := false, nmiPending := true }
     s.pins.resbIn = true ∧ s.pins.coarse ≠ .reset ∧ s.pins.enabled = false) ∧
    (withPins fun p => { p with resbIn := false, enabled := false }).pins.resbIn = false := by decide

theorem witness_ResetForceValues : (withPins fun p => { p with resbIn := false, enabled := false }).pins.resbIn = false := rfl

theorem witness_ResetSequenceRuns :
    let s : State := { mapped .io with pins := { State.reset.pins with coarse := .reset, enabled := false } }
    s.OffIo .read (wordAddrs 0x00 false 0xFFFC) ∧ s.pins.resbIn = true ∧ s.pins.coarse = .reset := by
  simp only [State.offIo_iff]
  decide

theorem witness_ResetProperties :
    (let s : State := { mapped .io with pins := { State.reset.pins with resbIn := false } }
     s.OffIo .read (wordAddrs 0x00 false 0xFFFC) ∧ s.pins.resbIn = false ∧ s.pins.resetHold = none) ∧
    (mapped .io).OffIo .read (wordAddrs 0x00 false 0xFFFC) ∧ ∃ t u, Resets (mapped .io) t ∧ Resets t u :=
  ⟨by simp only [State.offIo_iff]; decide, by simp only [State.offIo_iff]; decide, _, _, ⟨_, rfl, rfl⟩, _, rfl, rfl⟩

theorem inv_reset : State.reset.Inv := by
  refine ⟨⟨?_, ?_⟩, ?_, ?_, ?_, ?_, ?_, ?_⟩ <;> decide

theorem witness_StepKeepsInv : State.reset.Inv ∧ ∃ t, step State.reset = .next t := ⟨inv_reset, _, rfl⟩

/-- A step that fetches, and one of each idle kind. -/
theorem witness_StepKeepsRom :
    (∃ t, step State.reset = .next t) ∧
    (withPins fun p => { p with resbIn := false }).pins.resbIn = false ∧
    ((withPins fun p => { p with enabled := false }).pins.coarse ≠ .reset ∧
      (withPins fun p => { p with enabled := false }).pins.enabled = false) ∧
    (withPins fun p => { p with readyOut := false }).pins.readyOut = false ∧
      (withPins fun p => { p with readyOut := false }).wakes = false :=
  ⟨⟨_, rfl⟩, rfl, ⟨by decide, rfl⟩, rfl, by decide⟩

theorem witness_CycleAccuracy : State.reset.Fetching ∧ ∃ t, step State.reset = .next t := ⟨fetching_reset, _, rfl⟩

/-- For each clause an instruction that does change what it speaks of. -/
theorem witness_RegisterWriters :
    (∃ t, exec .xce State.reset = .next t ∧ t.regs.e ≠ State.reset.regs.e) ∧
    (∃ t, exec (.jmlPcLong 0x051234) State.reset = .next t ∧ t.regs.pbr ≠ State.reset.regs.pbr) ∧
    (∃ t, exec (.mvn 0x02 0x01) State.reset = .next t ∧ t.regs.dbr ≠ State.reset.regs.dbr) ∧
    (∃ t, exec .tcd (withRegs { Regs.reset with a := 0x0100 }) = .next t ∧ t.regs.d ≠ 0x0000) ∧
    (∃ t, exec .wai State.reset = .next t ∧ t.pins.readyOut ≠ State.reset.pins.readyOut) ∧
    ∃ t, exec .stp State.reset = .next t ∧ t.pins.enabled ≠ State.reset.pins.enabled :=
  ⟨⟨_, rfl, by decide⟩, ⟨_, rfl, by decide⟩, ⟨_, rfl, by decide⟩, ⟨_, rfl, by decide⟩, ⟨_, rfl, by decide⟩,
    ⟨_, rfl, by decide⟩⟩

/-- For each clause an instruction that does change its flag. -/
theorem witness_FlagWriters :
    (∃ t, exec .cli State.reset = .next t ∧ t.regs.p.i ≠ State.reset.regs.p.i) ∧
    (∃ t, exec .sed State.reset = .next t ∧ t.regs.p.d ≠ State.reset.regs.p.d) ∧
    (∃ t, exec (.sep 0x30) (withRegs native) = .next t ∧ t.regs.p.m ≠ native.p.m ∧ t.regs.p.x ≠ native.p.x) ∧
    ∃ t, exec (.adcImmM 0x007F) (withRegs { Regs.reset with a := 0x0001 }) = .next t ∧ t.regs.p.v ≠ Regs.reset.p.v :=
  ⟨⟨_, rfl, by decide⟩, ⟨_, rfl, by decide⟩, ⟨_, rfl, by decide⟩, ⟨_, rfl, by decide⟩⟩

theorem witness_MemoryWriters :
    ∃ t, exec (.stxAbs 0x2000) (withRegs { Regs.reset with x := 0x0012 }) = .next t ∧
      t.bus.mem ≠ (withRegs { Regs.reset with x := 0x0012 }).bus.mem := ⟨_, rfl, by decide⟩

/-- Every case of a resolution is met. -/
theorem witness_BusReads_BusWrites :
    let sh : Option Page := some ⟨.slow .e0, 0x20⟩
    (mapped .io).resolve .read 0x002011 = .io ∧ (mapped .io).resolve .write 0x002011 = .io ∧
    (mapped .empty).resolve .read 0x002011 = .empty ∧ (mapped .empty).resolve .write 0x002011 = .empty ∧
    State.reset.resolve .read 0xE02011 = .mem ⟨.slow .e0, 0x20⟩ false none ∧
    State.reset.resolve .write 0x002011 = .mem ⟨.fast 0x00, 0x20⟩ false none ∧
    (mapped (.mem ⟨.rom 0x00, 0x01⟩ true none)).resolve .write 0x002011 = .mem ⟨.rom 0x00, 0x01⟩ true none ∧
    (mapped (.mem ⟨.fast 0x00, 0x20⟩ true sh)).resolve .write 0x002011 = .mem ⟨.fast 0x00, 0x20⟩ true sh ∧
    (mapped (.mem ⟨.fast 0x00, 0x20⟩ false sh)).resolve .write 0x002011 = .mem ⟨.fast 0x00, 0x20⟩ false sh := by decide

/-- What the cases give: a dropped byte, a delivered byte, a byte delivered twice and charged the slow step, a byte that a page
of ROM drops and its shadow takes (log 22). -/
theorem test_bus_writes :
    ((mapped (.mem ⟨.rom 0x00, 0x01⟩ true none)).busWrite 0x002011 .data 0x5A).bus.mem = State.reset.bus.mem ∧
    (State.reset.busWrite 0x002011 .data 0x5A).peek 0x002011 = 0x5A ∧
    (let s := mapped (.mem ⟨.fast 0x00, 0x20⟩ false (some ⟨.slow .e0, 0x20⟩))
     let t := s.busWrite 0x002011 .data 0x5A
     t.peek 0xE02011 = 0x5A ∧ t.clock.ts = s.clock.ts + s.clock.slowStep) ∧
    (let t := (mapped (.mem ⟨.rom 0x00, 0x20⟩ false (some ⟨.slow .e0, 0x20⟩))).busWrite 0x002011 .data 0x5A
     (t.peek 0x002011, t.peek 0xE02011) = (0x00, 0x5A)) := by
  decide

/-- The internal cycle of INC lies before its write-back: one read and one internal cycle at the fast step, the write at the
slow one, whatever the I/O access then does to the speed gate (70_reset_and_hazards.md R464). -/
theorem test_modify_internal :
    let s : State := { State.reset with bus := { State.reset.bus with writePages := [(0x20, .io)] } }
    (s.modify (.abs 0x2000) rmwInc).clock.ts = s.clock.ts + 4 := by
  refine (congrArg (_ + · * _) (show _ = 0 from rfl)).trans ?_
  rw [Nat.zero_mul]
  rfl

/-- Two bytes stored at one address, in order. -/
theorem witness_FlatMemory :
    State.reset.Flat ∧ State.reset.bus.mem.wf = true ∧
      OnlyStores State.reset
        (State.reset.upd State.reset.regs State.reset.clock
          (State.reset.storeCells [(0x000100, 0x11), (0xFFFFFF, 0x22), (0x000100, 0x33)]))
        [(0x000100, 0x11), (0xFFFFFF, 0x22), (0x000100, 0x33)] :=
  ⟨flat_withRegs Regs.reset, rfl, OnlyStores.upd _ _ _ _⟩

/-- Both branches, the second both in native mode and with D.l at its edge. -/
theorem witness_DirectPageAddress :
    (Regs.reset.e = true ∧ lowByte Regs.reset.d = 0x00) ∧ ¬(native.e = true ∧ lowByte native.d = 0x00) ∧
      ¬(({ Regs.reset with d := 0x0001 } : Regs).e = true ∧ lowByte ({ Regs.reset with d := 0x0001 } : Regs).d = 0x00) := by
  decide

/-- The last byte read is 00:1FFF, or the page wraps there. -/
theorem witness_PointerReads :
    (gated edge).OffIo .read (wordAddrs 0x00 false 0x1FFE) ∧ (gated edge).OffIo .read (bytesAddrs 0x00 0x1FFD 3) ∧
      (gated edge).OffIo .read (wordAddrs 0x00 edge.pageWrap 0x1FFE) ∧
      (let r := { Regs.reset with d := 0x1F00 }
       (gated r).OffIo .read (wordAddrs 0x00 r.pageWrap 0x1FFF) ∧ r.pageWrap = true) := by
  simp only [State.offIo_iff]
  decide

/-- Each mode that reads a pointer, its last byte at 00:1FFF. -/
theorem witness_EffectiveIndirect :
    (∀ md ∈ [Mode.dpInd 0xFE, .dpXInd 0xFE, .dpIndY 0xFE, .dpIndLong 0xFD, .dpIndLongY 0xFD],
      (gated edge).OffIo .read ((gated edge).pointerAddrs md)) ∧
    (gated { edge with s := 0x1F00 }).OffIo .read ((gated { edge with s := 0x1F00 }).pointerAddrs (.srIndY 0xFE)) := by
  simp only [State.offIo_iff]
  decide

/-- A datum of each class right below the I/O page, and one of two bytes whose bank ends. -/
theorem witness_DataAccess :
    (∀ dir ∈ [Dir.read, .write], ∀ e ∈ [(⟨0x001FFE, .linear, false⟩ : Ea), ⟨0x001FFE, .bank0, false⟩],
      (gated edge).OffIo dir [e.addr] ∧ (gated edge).OffIo dir [e.addr, e.addr + 1]) ∧
    (gated edge).OffIo .read [0x01FFFF, 0x020000] := by
  simp only [State.offIo_iff]
  decide

/-- A push at 00:2100 and a pull at 00:1FFF in native mode; both in emulation mode. -/
theorem witness_StackPrimitives :
    (gated { native with s := 0x2100 }).OffIo .write [0x002100] ∧
      (gated { native with s := 0x1FFE }).OffIo .read [joinAddr 0x00 (0x1FFE + 1)] ∧
      (gated Regs.reset).OffIo .write [0x000100] ∧ (gated Regs.reset).OffIo .read [joinAddr 0x00 (0x01FF + 1)] := by
  simp only [State.offIo_iff]
  decide

theorem witness_Pushes :
    (let s := gated { edge with s := 0x2101 }
     ∀ u ∈ [StackUser.pha, .phx, .phy, .php, .phb, .phk, .phd, .pea, .pei, .per],
      s.OffIo .write ((s.pushCells u [0x12, 0x34]).map Prod.fst) ∧
      (gated Regs.reset).OffIo .write (((gated Regs.reset).pushCells u [0x12]).map Prod.fst)) ∧
    (gated edge).OffIo .read (wordAddrs 0x00 false ((gated edge).regs.dpAddr 0xFE 0)) := by
  simp only [State.offIo_iff]
  decide

theorem witness_Pulls :
    let s := gated { edge with s := 0x1FFD }
    ∀ u ∈ [StackUser.pla, .plx, .ply, .plp, .plb, .pld],
      s.OffIo .read (s.pullAddrs u 2) ∧
      (gated Regs.reset).OffIo .read ((gated Regs.reset).pullAddrs u 1) := by
  simp only [State.offIo_iff]
  decide

theorem witness_Jumps :
    (∀ wraps, (gated edge).OffIo .read (wordAddrs 0x00 wraps 0x1FFE)) ∧
      (gated edge).OffIo .read (wordAddrs (gated edge).regs.pbr false (0x1FFE + (gated edge).regs.x)) ∧
      (gated edge).OffIo .read (bytesAddrs 0x00 0x1FFD 3) := by
  simp only [State.offIo_iff]
  decide

theorem witness_CallsAndReturns :
    (let s := gated { edge with s := 0x2101 }
     s.OffIo .write ((s.pushCells .jsr [0x12, 0x34]).map Prod.fst) ∧
      s.OffIo .read (wordAddrs s.regs.pbr false (0x1FFE + s.regs.x))) ∧
    (gated edge).OffIo .write (((gated edge).pushCells .jsl [0x00, 0x12, 0x34]).map Prod.fst) ∧
    (let s := gated { edge with s := 0x1FFC }
     s.OffIo .read (s.pullAddrs .rts 2) ∧ s.OffIo .read (s.pullAddrs .rtl 3)) := by
  simp only [State.offIo_iff]
  decide

/-- The bytes on both sides of the I/O page. -/
theorem witness_BlockMoves :
    let s := gated { edge with x := 0x1FFF, y := 0x2100 }
    s.OffIo .read [joinAddr 0x00 s.regs.x] ∧ s.OffIo .write [joinAddr 0x00 s.regs.y] := by
  simp only [State.offIo_iff]
  decide

theorem witness_SoftwareInterrupts :
    (gated { edge with s := 0x2103 }).EntryOffIo .brk ∧ (gated { edge with s := 0x2103 }).EntryOffIo .cop ∧
      (gated Regs.reset).EntryOffIo .brk ∧ (gated Regs.reset).EntryOffIo .cop := by
  simp only [State.EntryOffIo, State.offIo_iff]
  decide

/-- Whatever the forms touch, none of it on the I/O page. -/
theorem witness_Loads :
    (∀ p ∈ [(Instr.ldaDpIndLongY 0xFD, Mode.dpIndLongY 0xFD), (.ldxAbsY 0x1FFE, .absY 0x1FFE), (.ldyDpX 0xFE, .dpX 0xFE)],
      p ∈ ldaForms 0x0000 0x000000 0xFD ++ ldxForms 0x1FFE 0x00 ++ ldyForms 0x0000 0xFE ∧
      (gated edge).OffIo .read ((gated edge).operandAddrs .w16 p.2)) ∧
    edge.p.widthM = .w16 ∧ edge.p.widthX = .w16 := by
  simp only [State.offIo_iff]
  decide

theorem witness_StoreForms :
    ∀ p ∈ [(Instr.staLongX 0x001FFE, Mode.longX 0x001FFE), (.stxDpY 0xFE, .dpY 0xFE), (.styAbs 0x2100, .abs 0x2100),
        (.stzAbsX 0x2100, .absX 0x2100)],
      p ∈ staForms 0x0000 0x001FFE 0x00 ++ stxForms 0x0000 0xFE ++ styForms 0x2100 0x00 ++ stzForms 0x2100 0x00 ∧
      (gated edge).OffIo .read ((gated edge).pointerAddrs p.2) ∧
      (gated edge).OffIo .write ((gated edge).dataAddrs .w16 ((gated edge).effective p.2).1) := by
  simp only [State.offIo_iff]
  decide

/-- The datum of a state right after reset is 0. -/
theorem witness_AddWithCarry :
    (gated edge).OffIo .read ((gated edge).operandAddrs (gated edge).regs.p.widthM (.abs 0x1FFE)) ∧
      (.adcAbs 0x1FFE, .abs 0x1FFE) ∈ adcForms 0x1FFE 0x000000 0x01 ∧
      (0x0000 : Word) = (gated edge).datum (gated edge).regs.p.widthM ((gated edge).effective (.abs 0x1FFE)).1 := by
  simp only [State.offIo_iff]
  decide

theorem witness_SubtractWithBorrow :
    (gated edge).OffIo .read ((gated edge).operandAddrs (gated edge).regs.p.widthM (.sr 0x01)) ∧
      (.sbcSr 0x01, .sr 0x01) ∈ sbcForms 0xFFFF 0x000000 0x01 ∧
      (0x0000 : Word) = (gated edge).datum (gated edge).regs.p.widthM ((gated edge).effective (.sr 0x01)).1 := by
  simp only [State.offIo_iff]
  decide

/-- Widths 1, 8 and 16. -/
theorem witness_widths : 0 < 1 ∧ 0 < 8 ∧ 0 < 16 := by decide

/-- 99 and 00 at two digits, 9999 at four. -/
theorem witness_DecimalArithmetic :
    (2 = 2 ∨ 2 = 4) ∧ bcdValid 2 (0x99#8).toNat ∧ bcdValid 2 (0x00#8).toNat ∧ bcdValid 4 (0x9999#16).toNat := by
  simp [bcdValid]

theorem witness_LogicForms :
    ∀ p ∈ [(Instr.andLong 0x002100, Mode.long 0x002100), (.oraDpInd 0xFE, .dpInd 0xFE), (.eorAbsX 0x1FFE, .absX 0x1FFE)],
      p ∈ andForms 0x0000 0x002100 0x00 ++ oraForms 0x0000 0x000000 0xFE ++ eorForms 0x1FFE 0x000000 0x00 ∧
      (gated edge).OffIo .read ((gated edge).operandAddrs .w16 p.2) := by
  simp only [State.offIo_iff]
  decide

theorem witness_CompareForms :
    ∀ p ∈ [(Instr.cmpSrIndY 0x00, Mode.srIndY 0x00), (.cpxDp 0xFE, .dp 0xFE), (.cpyAbs 0x1FFE, .abs 0x1FFE)],
      p ∈ cmpForms 0x0000 0x000000 0x00 ++ cpxForms 0x0000 0xFE ++ cpyForms 0x1FFE 0x00 ∧
      (gated edge).OffIo .read ((gated edge).operandAddrs .w16 p.2) := by
  simp only [State.offIo_iff]
  decide

theorem witness_BitTest :
    (gated edge).OffIo .read ((gated edge).operandAddrs (gated edge).regs.p.widthM (.absX 0xFFFF)) ∧
      (.bitAbsX 0xFFFF, .absX 0xFFFF) ∈ bitForms 0xFFFF 0x00 := by
  simp only [State.offIo_iff]
  decide

/-- At both widths. -/
theorem witness_ModifyForms :
    (∀ s ∈ [gated edge, gated { Regs.reset with d := 0x1F00 }], ∀ md ∈ [Mode.dp 0xFE, .abs 0x2100],
      s.OffIo .read (s.operandAddrs s.regs.p.widthM md) ∧
      s.OffIo .write (s.dataAddrs s.regs.p.widthM (s.effective md).1)) ∧
    (.aslDp 0xFE, .dp 0xFE) ∈ aslForms 0x0000 0xFE ∧ (.trbAbs 0x2100, .abs 0x2100) ∈ trbForms 0x2100 0x00 := by
  simp only [State.offIo_iff]
  decide

theorem ok_reset (s : Word) (h : highByte s = 0x01) : (withRegs { Regs.reset with s := s }).regs.Ok :=
  ⟨fun _ => ⟨rfl, rfl, h⟩, fun _ => ⟨show highByte 0x0000 = 0x00 by decide, show highByte 0x0000 = 0x00 by decide⟩⟩

/-- S.l at its least for a pair of the quirk set in emulation mode; a pair outside the set at S.l = 0; native mode. -/
theorem witness_StackBalance :
    (let s := withRegs { Regs.reset with s := 0x0102 }
     s.Flat ∧ s.bus.mem.wf = true ∧ s.regs.Ok ∧ s.quirk .phd = true ∧ 2 ≤ (lowByte s.regs.s).toNat) ∧
    (let s := withRegs { Regs.reset with s := 0x0100 }
     s.Flat ∧ s.bus.mem.wf = true ∧ s.regs.Ok ∧ s.quirk .pha = false ∧ s.quirk .pla = false) ∧
    (let s := withRegs { native with s := 0x0000 }
     s.Flat ∧ s.bus.mem.wf = true ∧ s.regs.Ok ∧ s.regs.e = false) :=
  ⟨⟨flat_withRegs _, rfl, ok_reset _ (by decide), by decide, by decide⟩,
    ⟨flat_withRegs _, rfl, ok_reset _ (by decide), by decide, by decide⟩,
    flat_withRegs _, rfl, ⟨fun h => absurd h (by decide), fun h => absurd h (by decide)⟩, rfl⟩

/-- S.l = 3 for JSL and RTL of the quirk set; JSR and RTS, outside it, at S.l = 0. -/
theorem witness_CallThenReturn :
    (let s := withRegs { Regs.reset with s := 0x0103 }
     s.Flat ∧ s.bus.mem.wf = true ∧ s.regs.Ok ∧ s.quirk .jsl = true ∧ 3 ≤ (lowByte s.regs.s).toNat) ∧
    (let s := withRegs { Regs.reset with s := 0x0100 }
     s.Flat ∧ s.bus.mem.wf = true ∧ s.regs.Ok ∧ s.quirk .jsr = false ∧ s.quirk .rts = false) :=
  ⟨⟨flat_withRegs _, rfl, ok_reset _ (by decide), by decide, by decide⟩,
    flat_withRegs _, rfl, ok_reset _ (by decide), by decide, by decide⟩

/-- All three clauses, the third with RTI put into the quirk set. -/
theorem witness_ReturnFromInterrupt :
    (let s := gated { edge with s := 0x1FFB }
     s.OffIo .read (s.returnAddrs (s.quirk .rti)) ∧ s.regs.e = false) ∧
    (let s := gated Regs.reset
     s.OffIo .read (s.returnAddrs (s.quirk .rti)) ∧ s.regs.e = true ∧ s.quirk .rti = false) ∧
    (let s : State := { gated Regs.reset with params := { Config.defaults with emuStackQuirkSet := [.rti] } }
     s.OffIo .read (s.returnAddrs (s.quirk .rti)) ∧ s.regs.e = true ∧ s.quirk .rti = true) := by
  simp only [State.offIo_iff]
  decide

/-- Native mode, and emulation mode with the default quirk set at S.l = 0. -/
theorem witness_EntryThenReturn :
    (let s := withRegs native
     s.Flat ∧ s.bus.mem.wf = true ∧ s.regs.Ok ∧ s.regs.e = false) ∧
    (let s := withRegs { Regs.reset with s := 0x0100 }
     s.Flat ∧ s.bus.mem.wf = true ∧ s.regs.Ok ∧ s.entryQuirk .brk = false ∧ s.quirk .rti = false) :=
  ⟨⟨flat_withRegs _, rfl, ⟨fun h => absurd h (by decide), fun h => absurd h (by decide)⟩, rfl⟩,
    flat_withRegs _, rfl, ok_reset _ (by decide), by decide, by decide⟩

/-! ## The host's view -/

/-- A word of the table, stored where a step fetches, is what that step runs. -/
theorem test_withFetchWord :
    decodeTableWord 24 0x1234AD = some (.ldaAbs 0x1234) ∧
      (after (State.reset.withFetchWord 24 0x1234AD)).trace.map (fun r => (r.opcode, r.operands)) =
        some (0xAD, [0x34, 0x12]) := by decide

end Sys2Proof.Tests
end

section
/-! SUPPORT. The status byte, `SetNZ`, `Normalize()` and the state after reset: laws that stand by themselves. -/

namespace Sys2Proof.Machine

/-- The bits of the byte of P (10_state.md R30). -/
theorem Status.toByte_bits (p : Status) :
    (List.range 8).map p.toByte.getLsbD = [p.c, p.z, p.i, p.d, p.x, p.m, p.v, p.n] := by
  rcases p with ⟨c, z, i, d, x, m, v, n⟩
  revert c z i d x m v n; decide

/-- Two bytes with the same list of bits are the same. -/
theorem byte_eq_of_bits {b b' : Byte}
    (h : (List.range 8).map b.getLsbD = (List.range 8).map b'.getLsbD) : b = b' :=
  BitVec.eq_of_getLsbD_eq fun i hi => List.map_inj_left.mp h i (List.mem_range.mpr hi)

/-- No bit of a pulled byte is lost in P (10_state.md R30). -/
@[simp] theorem toByte_ofByte (b : Byte) : (Status.ofByte b).toByte = b :=
  byte_eq_of_bits (Status.toByte_bits (Status.ofByte b))

theorem beq_zero_eq_toNat {w : Nat} (v : BitVec w) : (v == 0#w) = decide (v.toNat = 0) := by
  rw [Bool.eq_iff_iff, beq_iff_eq, decide_eq_true_eq, BitVec.toNat_eq, BitVec.toNat_zero]

/-- `Normalize()` without its two stages: what each register ends with (10_state.md R37). -/
theorem Regs.normalize_eq (r : Regs) :
    r.normalize =
      { r with
        p := { r.p with m := r.p.m || r.e, x := r.p.x || r.e }
        s := if r.e = true then joinWord 0x01 (lowByte r.s) else r.s
        x := if r.p.x = true ∨ r.e = true then joinWord 0x00 (lowByte r.x) else r.x
        y := if r.p.x = true ∨ r.e = true then joinWord 0x00 (lowByte r.y) else r.y } := by
  rcases r with ⟨a, x, y, s, d, pbr, dbr, pc, ⟨fc, fz, fi, fd, fx, fm, fv, fn⟩, e⟩
  cases e <;> cases fx <;> simp [Regs.normalize, zeroExt_eq_joinWord]

/-- Settles O58: the byte's bits, one by one, and P read back from them. -/
theorem statusByteLayout : Obligations.StatusByteLayout :=
  ⟨fun p => ⟨p.toByte_bits, ofByte_toByte p⟩, toByte_ofByte⟩

/-- Settles O24: Z is the comparison with zero, N the most significant bit. -/
theorem nzLaw : Obligations.NzLaw := by
  intro w p v
  rw [Status.setNZ, beq_zero_eq_toNat, BitVec.msb_eq_getLsbD_last]

/-- Settles O25, by `Regs.normalize_eq`. -/
theorem normalizeLaw : Obligations.NormalizeLaw := Regs.normalize_eq

/-- Settles O12: every value is read off `State.reset`; PC is the vector of the empty memory. -/
theorem resetValues : Obligations.ResetValues := by
  unfold Obligations.ResetValues
  decide

/-- Settles O14: emulation mode with M, X and S.h set, the index registers zero, and empty stores and maps. -/
theorem resetInv : Obligations.ResetInv where
  regs := ⟨fun _ => ⟨rfl, rfl, by decide⟩, fun _ => ⟨by decide, by decide⟩⟩
  coarse := .inr rfl
  steps := by decide
  mem := rfl
  bankMap := rfl
  readPages := rfl
  writePages := rfl

end Sys2Proof.Machine
end

section
/-! SUPPORT. Which of the registers that few instructions write an instruction may change, and that it keeps the
invariants of 10_state.md R36: one frame relation, proved for every operation, I/O pages or not. -/

namespace Sys2Proof.Machine

/-! ## The fields and who writes them -/

/-- The flags of P that are no mere results. -/
inductive Flag
  | i | d | m | x | v

/-- The value of a flag. -/
def Status.flag (p : Status) : Flag → Bool
  | .i => p.i
  | .d => p.d
  | .m => p.m
  | .x => p.x
  | .v => p.v

/-- The parts of the register file that few instructions write (10_state.md R24 to R26, R31, R35). -/
inductive Field
  | e | pbr | dbr | d | flag (f : Flag)

/-- P as a whole. -/
abbrev wholeP : List Field := [.flag .i, .flag .d, .flag .m, .flag .x, .flag .v]

/-- ADC, SBC and BIT on memory, in every form. -/
def SumForm (i : Instr) : Prop :=
  ∃ a l b v, i ∈ [Instr.adcImmM v, .sbcImmM v] ++ (adcForms a l b ++ sbcForms a l b ++ bitForms a b).map Prod.fst

/-- The fields an instruction may change; any instruction may change none of them. -/
inductive Writes : Instr → List Field → Prop
  | none (i : Instr) : Writes i []
  | xce : Writes .xce [.e, .flag .m, .flag .x]
  | jmlPcLong (l : Addr) : Writes (.jmlPcLong l) [.pbr]
  | jmlPcIndLong (a : Word) : Writes (.jmlPcIndLong a) [.pbr]
  | jsl (l : Addr) : Writes (.jsl l) [.pbr]
  | rtl : Writes .rtl [.pbr]
  | brk (b : Byte) : Writes (.brk b) [.pbr, .flag .i, .flag .d]
  | cop (b : Byte) : Writes (.cop b) [.pbr, .flag .i, .flag .d]
  | rti : Writes .rti (.pbr :: wholeP)
  | rep (b : Byte) : Writes (.rep b) wholeP
  | sep (b : Byte) : Writes (.sep b) wholeP
  | plp : Writes .plp wholeP
  | plb : Writes .plb [.dbr]
  | mvn (b b' : Byte) : Writes (.mvn b b') [.dbr]
  | mvp (b b' : Byte) : Writes (.mvp b b') [.dbr]
  | tcd : Writes .tcd [.d]
  | pld : Writes .pld [.d]
  | cli : Writes .cli [.flag .i]
  | sei : Writes .sei [.flag .i]
  | cld : Writes .cld [.flag .d]
  | sed : Writes .sed [.flag .d]
  | clv : Writes .clv [.flag .v]
  | sum {i : Instr} (h : SumForm i) : Writes i [.flag .v]

/-! ## The frame relation -/

/-- The part of the invariants of 10_state.md R36 that no stack access can break. -/
structure Regs.Narrow (r : Regs) : Prop where
  emu : r.e = true → r.p.m = true ∧ r.p.x = true
  idx : r.p.x = true → highByte r.x = 0x00 ∧ highByte r.y = 0x00

/-- S lies in page 0x01 in emulation mode (10_state.md R36). -/
def Regs.Paged (r : Regs) : Prop := r.e = true → highByte r.s = 0x01

theorem Regs.ok_iff (r : Regs) : r.Ok ↔ r.Narrow ∧ r.Paged :=
  ⟨fun h => ⟨⟨fun he => ⟨(h.emu he).1, (h.emu he).2.1⟩, h.idx⟩, fun he => (h.emu he).2.2⟩,
    fun h => ⟨fun he => ⟨(h.1.emu he).1, (h.1.emu he).2, h.2 he⟩, h.1.idx⟩⟩

/-- `r'` comes from `r` with no field changed but those of `fs`, the invariants of 10_state.md R36 kept. -/
structure Regs.Frame (fs : List Field) (r r' : Regs) : Prop where
  e : .e ∉ fs → r'.e = r.e
  pbr : .pbr ∉ fs → r'.pbr = r.pbr
  dbr : .dbr ∉ fs → r'.dbr = r.dbr
  d : .d ∉ fs → r'.d = r.d
  flag : ∀ f, .flag f ∉ fs → r'.p.flag f = r.p.flag f
  narrow : r.Narrow → r'.Narrow
  paged : r.Paged → r'.Paged

theorem Regs.Frame.refl (fs : List Field) (r : Regs) : r.Frame fs r :=
  ⟨fun _ => rfl, fun _ => rfl, fun _ => rfl, fun _ => rfl, fun _ _ => rfl, id, id⟩

theorem Regs.Frame.trans {fs : List Field} {r r' r'' : Regs} (h : r.Frame fs r') (h' : r'.Frame fs r'') :
    r.Frame fs r'' :=
  ⟨fun k => (h'.e k).trans (h.e k), fun k => (h'.pbr k).trans (h.pbr k), fun k => (h'.dbr k).trans (h.dbr k),
    fun k => (h'.d k).trans (h.d k), fun f k => (h'.flag f k).trans (h.flag f k), h'.narrow ∘ h.narrow,
    h'.paged ∘ h.paged⟩

theorem Regs.Frame.mono {fs gs : List Field} {r r' : Regs} (hs : fs ⊆ gs) (h : r.Frame fs r') : r.Frame gs r' :=
  ⟨fun k => h.e fun k' => k (hs k'), fun k => h.pbr fun k' => k (hs k'), fun k => h.dbr fun k' => k (hs k'),
    fun k => h.d fun k' => k (hs k'), fun f k => h.flag f fun k' => k (hs k'), h.narrow, h.paged⟩

theorem Regs.Frame.ok {fs : List Field} {r r' : Regs} (h : r.Frame fs r') (hr : r.Ok) : r'.Ok :=
  have hr := r.ok_iff.mp hr
  r'.ok_iff.mpr ⟨h.narrow hr.1, h.paged hr.2⟩

/-- Registers that keep E, M, X and what the index registers must be. -/
theorem Regs.Narrow.congr {r r' : Regs} (h : r.Narrow) (he : r'.e = r.e) (hm : r'.p.m = r.p.m) (hx : r'.p.x = r.p.x)
    (hidx : r.p.x = true → highByte r'.x = 0x00 ∧ highByte r'.y = 0x00) : r'.Narrow :=
  ⟨fun k => by rw [hm, hx]; exact h.emu (he ▸ k), fun k => hidx (hx ▸ k)⟩

/-- A and flags other than M and X are written. -/
theorem Regs.Frame.status {fs : List Field} (hm : .flag .m ∉ fs) (hx : .flag .x ∉ fs) (r : Regs) (a : Word) {p : Status}
    (hp : ∀ f, .flag f ∉ fs → p.flag f = r.p.flag f) : r.Frame fs { r with a := a, p := p } where
  e _ := rfl
  pbr _ := rfl
  dbr _ := rfl
  d _ := rfl
  flag := hp
  narrow h := h.congr rfl (hp .m hm) (hp .x hx) h.idx
  paged := id

/-! ## Flags -/

@[simp] theorem Status.setNZ_flag {w : Nat} (p : Status) (v : BitVec w) (f : Flag) : (p.setNZ v).flag f = p.flag f := by
  cases f <;> rfl

@[simp] theorem Status.setNZAt_flag (p : Status) (w : Width) (v : Word) (f : Flag) :
    (p.setNZAt w v).flag f = p.flag f := by
  cases w <;> exact Status.setNZ_flag _ _ f

@[simp] theorem Status.compareAt_flag (p : Status) (w : Width) (a v : Word) (f : Flag) :
    (p.compareAt w a v).flag f = p.flag f := by
  cases w <;> cases f <;> rfl

/-- An operation changes no flag that is not in `fs`, C, Z and N aside. -/
def AluOp.Keeps (fs : List Field) (op : AluOp) : Prop :=
  ∀ (w : Nat) (a v : BitVec w) (p : Status) (f : Flag), .flag f ∉ fs → (op w a v p).2.flag f = p.flag f

theorem AluOp.Keeps.runOp {fs : List Field} {op : AluOp} (h : AluOp.Keeps fs op) (w : Width) (a v : Word) (p : Status)
    (f : Flag) (hf : .flag f ∉ fs) : (runOp op w a v p).2.flag f = p.flag f := by
  cases w
  · exact h _ _ _ p f hf
  · exact h _ _ _ p f hf

/-- A sum writes V, and no other flag but C, Z and N (42_alu.md R212, R216). -/
theorem Status.setSum_flag {w : Nat} (p : Status) (r : Sum w) {f : Flag} (hf : .flag f ∉ [Field.flag .v]) :
    (p.setSum r).flag f = p.flag f := by
  cases f with
  | v => exact absurd List.mem_cons_self hf
  | i | d | m | x => rfl

theorem keeps_aluAdc (dv : DecimalV) : AluOp.Keeps [.flag .v] (aluAdc dv) := fun _ _ _ p _ hf => p.setSum_flag _ hf
theorem keeps_aluSbc (dv : DecimalV) : AluOp.Keeps [.flag .v] (aluSbc dv) := fun _ _ _ p _ hf => p.setSum_flag _ hf
theorem keeps_aluAnd : AluOp.Keeps [] aluAnd := fun _ _ _ p f _ => Status.setNZ_flag p _ f
theorem keeps_aluOra : AluOp.Keeps [] aluOra := fun _ _ _ p f _ => Status.setNZ_flag p _ f
theorem keeps_aluEor : AluOp.Keeps [] aluEor := fun _ _ _ p f _ => Status.setNZ_flag p _ f
theorem keeps_rmwAsl : AluOp.Keeps [] rmwAsl := fun _ _ _ _ f _ => by cases f <;> rfl
theorem keeps_rmwLsr : AluOp.Keeps [] rmwLsr := fun _ _ _ _ f _ => by cases f <;> rfl
theorem keeps_rmwRol : AluOp.Keeps [] rmwRol := fun _ _ _ _ f _ => by cases f <;> rfl
theorem keeps_rmwRor : AluOp.Keeps [] rmwRor := fun _ _ _ _ f _ => by cases f <;> rfl
theorem keeps_rmwInc : AluOp.Keeps [] rmwInc := fun _ _ _ p f _ => Status.setNZ_flag p _ f
theorem keeps_rmwDec : AluOp.Keeps [] rmwDec := fun _ _ _ p f _ => Status.setNZ_flag p _ f
theorem keeps_rmwTsb : AluOp.Keeps [] rmwTsb := fun _ _ _ _ f _ => by cases f <;> rfl
theorem keeps_rmwTrb : AluOp.Keeps [] rmwTrb := fun _ _ _ _ f _ => by cases f <;> rfl

/-! ## Changes of registers -/

/-- A value taken at the width of the index registers fits them. -/
theorem highByte_take_widthX {p : Status} (h : p.x = true) (v : Word) : highByte (p.widthX.take v) = 0x00 := by
  simp [Status.widthX, h, Width.take]

section
variable (r : Regs)

theorem Regs.frame_pc (fs : List Field) (pc : Word) : r.Frame fs { r with pc := pc } :=
  ⟨fun _ => rfl, fun _ => rfl, fun _ => rfl, fun _ => rfl, fun _ _ => rfl, fun h => ⟨h.emu, h.idx⟩, id⟩

theorem Regs.frame_jumpLong (pc : Word) (b : Byte) : r.Frame [.pbr] { r with pc := pc, pbr := b } :=
  ⟨fun _ => rfl, fun h => absurd List.mem_cons_self h, fun _ => rfl, fun _ => rfl, fun _ _ => rfl,
    fun h => ⟨h.emu, h.idx⟩, id⟩

theorem Regs.frame_loadA (w : Width) (v : Word) : r.Frame [] (r.loadA w v) :=
  .status List.not_mem_nil List.not_mem_nil r _ fun f _ => Status.setNZAt_flag _ _ _ f

theorem Regs.frame_setA16 (v : Word) : r.Frame [] (r.setA16 v) :=
  .status List.not_mem_nil List.not_mem_nil r _ fun f _ => Status.setNZ_flag _ _ f

theorem Regs.frame_exchangeA : r.Frame [] r.exchangeA :=
  .status List.not_mem_nil List.not_mem_nil r _ fun f _ => Status.setNZ_flag _ _ f

theorem Regs.frame_aluA {fs : List Field} {op : AluOp} (hm : .flag .m ∉ fs) (hx : .flag .x ∉ fs) (h : op.Keeps fs)
    (v : Word) : r.Frame fs (r.aluA op v) :=
  .status hm hx r _ fun f hf => h.runOp _ _ _ r.p f hf

theorem Regs.frame_compare (w : Width) (a v : Word) : r.Frame [] { r with p := r.p.compareAt w a v } :=
  .status List.not_mem_nil List.not_mem_nil r r.a fun f _ => Status.compareAt_flag _ _ _ _ f

/-- The index registers and flags other than M and X are written. -/
theorem Regs.Frame.index (x y : Word) {p : Status} (hp : ∀ f, p.flag f = r.p.flag f)
    (hidx : r.Narrow → r.p.x = true → highByte x = 0x00 ∧ highByte y = 0x00) :
    r.Frame [] { r with x := x, y := y, p := p } where
  e _ := rfl
  pbr _ := rfl
  dbr _ := rfl
  d _ := rfl
  flag f _ := hp f
  narrow h := h.congr rfl (hp .m) (hp .x) (hidx h)
  paged := id

theorem Regs.frame_loadX (v : Word) : r.Frame [] (r.loadX v) :=
  .index r _ r.y (fun f => Status.setNZAt_flag _ _ _ f) fun h hx => ⟨highByte_take_widthX hx v, (h.idx hx).2⟩

theorem Regs.frame_loadY (v : Word) : r.Frame [] (r.loadY v) :=
  .index r r.x _ (fun f => Status.setNZAt_flag _ _ _ f) fun h hx => ⟨(h.idx hx).1, highByte_take_widthX hx v⟩

theorem Regs.frame_setD (v : Word) : r.Frame [.d] (r.setD v) where
  e _ := rfl
  pbr _ := rfl
  dbr _ := rfl
  d h := absurd List.mem_cons_self h
  flag f _ := Status.setNZ_flag _ _ f
  narrow h := ⟨h.emu, h.idx⟩
  paged := id

theorem Regs.frame_pullB (v : Word) : r.Frame [.dbr] (r.pullB v) where
  e _ := rfl
  pbr _ := rfl
  dbr h := absurd List.mem_cons_self h
  d _ := rfl
  flag f _ := Status.setNZ_flag _ _ f
  narrow h := ⟨h.emu, h.idx⟩
  paged := id

theorem Regs.frame_setS (v : Word) : r.Frame [] (r.setS v) where
  e _ := rfl
  pbr _ := rfl
  dbr _ := rfl
  d _ := rfl
  flag _ _ := rfl
  narrow h := ⟨h.emu, h.idx⟩
  paged _ (he : r.e = true) := by simp [Regs.setS, he]

/-- `Normalize()` imposes the invariants of 10_state.md R36. -/
theorem Regs.normalize_ok : r.normalize.Ok := by
  rw [Regs.normalize_eq]
  exact ⟨fun (he : r.e = true) => by simp [he], fun hx => by
    have h : r.p.x = true ∨ r.e = true := by simpa using hx
    simp [h]⟩

/-- P written as a whole and normalized (10_state.md R37). -/
theorem Regs.frame_normalize (p : Status) : r.Frame wholeP { r with p := p }.normalize where
  e _ := by rw [Regs.normalize_eq]
  pbr _ := by rw [Regs.normalize_eq]
  dbr _ := by rw [Regs.normalize_eq]
  d _ := by rw [Regs.normalize_eq]
  flag f hf := by cases f <;> simp at hf
  narrow _ := ((Regs.ok_iff _).mp (Regs.normalize_ok _)).1
  paged _ := ((Regs.ok_iff _).mp (Regs.normalize_ok _)).2

theorem Regs.frame_exchangeCE : r.Frame [.e, .flag .m, .flag .x] r.exchangeCE where
  e h := absurd List.mem_cons_self h
  pbr _ := by rw [Regs.exchangeCE, Regs.normalize_eq]
  dbr _ := by rw [Regs.exchangeCE, Regs.normalize_eq]
  d _ := by rw [Regs.exchangeCE, Regs.normalize_eq]
  flag f hf := by
    rw [Regs.exchangeCE, Regs.normalize_eq]
    cases f with
    | m | x => simp at hf
    | i | d | v => rfl
  narrow _ := ((Regs.ok_iff _).mp (Regs.normalize_ok _)).1
  paged _ := ((Regs.ok_iff _).mp (Regs.normalize_ok _)).2

/-- BIT on memory writes V (42_alu.md R224). -/
theorem Regs.frame_bitMem (v : Word) : r.Frame [.flag .v] (r.bitMem v) := by
  unfold Regs.bitMem
  have keeps : ∀ {w : Nat} (a m : BitVec w) (f : Flag), .flag f ∉ [Field.flag .v] →
      (r.p.bitMemory a m).flag f = r.p.flag f := by
    intro w a m f hf
    cases f with
    | v => exact absurd List.mem_cons_self hf
    | i | d | m | x => rfl
  split <;> exact .status (by simp) (by simp) r r.a (keeps _ _)

theorem Regs.frame_bitImm (v : Word) : r.Frame [] (r.bitImm v) := by
  unfold Regs.bitImm
  split <;> exact .status List.not_mem_nil List.not_mem_nil r r.a fun f _ => by cases f <;> rfl

end

/-! ## Operations over the state -/

/-- `t` comes from `s` by bus accesses, internal cycles and changes of registers, with no field changed but those of
`fs`. -/
structure Confined (fs : List Field) (s t : State) : Prop where
  rest : Rest s t
  frame : s.regs.Frame fs t.regs

section
variable {fs : List Field} {s t : State}

/-- Operations that leave the registers alone. -/
theorem Confined.of_regs_eq (h : Rest s t) (hr : t.regs = s.regs) : Confined fs s t := ⟨h, by rw [hr]; exact .refl fs _⟩

theorem Confined.settle {s0 : State} {a b : Nat} (h : Confined fs s t) : Confined fs s (t.settle a b s0) :=
  ⟨h.rest.trans (Rest.settle t s0 a b), h.frame⟩

theorem Confined.readOperand (md : Mode) (w : Width) (n : Nat) {f : Word → Regs → Regs}
    (hf : ∀ v, s.regs.Frame fs (f v s.regs)) : Confined fs s (s.readOperand md w n f) := by
  obtain ⟨v, h⟩ := s.readOperand_regs md w n f
  exact ⟨Rest.readOperand s md w n f, by rw [h]; exact hf v⟩

theorem Confined.immediate (imm : Word) (w : Width) (n : Nat) {f : Word → Regs → Regs}
    (hf : s.regs.Frame fs (f imm s.regs)) : Confined fs s (s.immediate imm w n f) := ⟨Rest.immediate s imm w n f, hf⟩

theorem Confined.implied (n : Nat) {f : Regs → Regs} (hf : s.regs.Frame fs (f s.regs)) :
    Confined fs s (s.implied n f) := ⟨Rest.implied s n f, hf⟩

theorem Confined.store (md : Mode) (w : Width) (v : Word) : Confined fs s (s.store md w v) :=
  .of_regs_eq (Rest.store s md w v) (s.store_regs md w v)

theorem Confined.modify (md : Mode) {op : RmwOp} (h : AluOp.Keeps [] op) : Confined [] s (s.modify md op) := by
  obtain ⟨v, hv⟩ := s.modify_regs md op
  refine ⟨Rest.modify s md op, ?_⟩
  rw [hv]
  exact .status List.not_mem_nil List.not_mem_nil s.regs s.regs.a (h.runOp _ _ v s.regs.p)

theorem Confined.modifyAcc {op : RmwOp} (h : AluOp.Keeps [] op) : Confined [] s (s.modifyAcc op) :=
  .implied 2 (s.regs.frame_aluA List.not_mem_nil List.not_mem_nil h _)

theorem Confined.alu (md : Mode) (n : Nat) {op : AluOp} (hm : .flag .m ∉ fs) (hx : .flag .x ∉ fs) (h : op.Keeps fs) :
    Confined fs s (s.alu op n md) :=
  .readOperand md _ n fun v => s.regs.frame_aluA hm hx h v

theorem Confined.aluImm (imm : Word) (n : Nat) {op : AluOp} (hm : .flag .m ∉ fs) (hx : .flag .x ∉ fs)
    (h : op.Keeps fs) : Confined fs s (s.aluImm op n imm) :=
  .immediate imm _ n (s.regs.frame_aluA hm hx h imm)

theorem Confined.adc (md : Mode) : Confined [.flag .v] s (s.adc md) := .alu md _ (by simp) (by simp) (keeps_aluAdc _)

theorem Confined.sbc (md : Mode) : Confined [.flag .v] s (s.sbc md) := .alu md _ (by simp) (by simp) (keeps_aluSbc _)

theorem Confined.adcImm (imm : Word) :
    Confined [.flag .v] s (s.aluImm (aluAdc s.params.decimalV) s.decimalCycles imm) :=
  .aluImm imm _ (by simp) (by simp) (keeps_aluAdc _)

theorem Confined.sbcImm (imm : Word) :
    Confined [.flag .v] s (s.aluImm (aluSbc s.params.decimalV) s.decimalCycles imm) :=
  .aluImm imm _ (by simp) (by simp) (keeps_aluSbc _)

/-- CLC and SEC. -/
theorem Confined.mapStatus {f : Status → Status} (hf : ∀ k, (f s.regs.p).flag k = s.regs.p.flag k) :
    Confined [] s (s.mapStatus f) :=
  .implied 2 (.status List.not_mem_nil List.not_mem_nil s.regs s.regs.a fun k _ => hf k)

/-- The instructions that write one flag, which is not M or X. -/
theorem Confined.mapFlag (g : Flag) {f : Status → Status} (hm : g ≠ .m) (hx : g ≠ .x)
    (hf : ∀ k, k ≠ g → (f s.regs.p).flag k = s.regs.p.flag k) : Confined [.flag g] s (s.mapStatus f) :=
  .implied 2 (.status (by simpa using hm.symm) (by simpa using hx.symm) s.regs s.regs.a
    fun k hk => hf k (by simpa using hk))

theorem Confined.mapStatusByte (f : Status → Status) : Confined wholeP s (s.mapStatusByte f) :=
  ⟨Rest.mapStatusByte s f, s.regs.frame_normalize (f s.regs.p)⟩

theorem Confined.branch (cond : Bool) (disp : Byte) : Confined fs s (s.branch cond disp) := by
  refine ⟨Rest.branch s cond disp, ?_⟩
  unfold State.branch
  dsimp only
  split
  · exact s.regs.frame_pc fs _
  · exact .refl fs _

theorem Confined.jump (n : Nat) {t : Word × State} (h : Rest s t.2) (hr : t.2.regs = s.regs) :
    Confined fs s (s.jump n t) :=
  ⟨Rest.jump n h, by
    rw [State.jump, State.settle_regs, State.mapRegs_regs, hr]
    exact s.regs.frame_pc fs t.1⟩

theorem Confined.jumpLong (n len : Nat) {t : Addr × State} (h : Rest s t.2) (hr : t.2.regs = s.regs) :
    Confined [.pbr] s (s.jumpLong n len t) :=
  ⟨Rest.jumpLong n len h, by
    rw [State.jumpLong, State.settle_regs, State.mapRegs_regs, hr]
    exact s.regs.frame_jumpLong _ _⟩

theorem Confined.blockMove (dst src : Byte) (delta : Word) : Confined [.dbr] s (s.blockMove dst src delta) := by
  refine ⟨Rest.blockMove s dst src delta, ?_⟩
  simp only [State.blockMove, State.settle_regs, State.mapRegs_regs, State.busWrite_regs, State.busRead_regs]
  exact {
    e := fun _ => rfl
    pbr := fun _ => rfl
    dbr := fun h => absurd List.mem_cons_self h
    d := fun _ => rfl
    flag := fun _ _ => rfl
    narrow := fun h => ⟨h.emu, fun hx => ⟨highByte_take_widthX hx _, highByte_take_widthX hx _⟩⟩
    paged := id }

end

/-! ## The stack: S may leave page 0x01 within an instruction of the quirk set, and is latched at its end -/

/-- Pushes or pulls that stay in page 0x01 end there. -/
theorem highByte_stackMove {f : Word → Word} (hf : ∀ w, highByte (f w) = 0x01) (n : Nat) {sp : Word}
    (h : highByte sp = 0x01) : highByte (stackMove f n sp) = 0x01 := by
  induction n generalizing sp with
  | zero => exact h
  | succ n ih => exact ih (hf sp)

theorem Regs.Paged.pushed {r : Regs} (h : r.Paged) (n : Nat) :
    ({ r with s := stackMove (stackDown (r.e && !false)) n r.s } : Regs).Paged := fun (he : r.e = true) =>
  highByte_stackMove (fun w => by simp [stackDown, he]) n (h he)

theorem Regs.Paged.pulled {r : Regs} (h : r.Paged) (n : Nat) :
    ({ r with s := stackMove (stackUp (r.e && !false)) n r.s } : Regs).Paged := fun (he : r.e = true) =>
  highByte_stackMove (fun w => by simp [stackUp, he]) n (h he)

/-- An instruction that leaves S at `sp`, in page 0x01 unless it is of the quirk set, then changes registers, then
latches S. -/
theorem State.frame_endQuirk {fs : List Field} {r : Regs} {sp : Word} {full : Bool} {t : State}
    (hsp : full = false → r.Paged → ({ r with s := sp } : Regs).Paged)
    (h : ({ r with s := sp } : Regs).Frame fs t.regs) : r.Frame fs (t.endQuirk full).regs := by
  rw [State.endQuirk_regs]
  refine ⟨h.e, h.pbr, h.dbr, h.d, h.flag, fun hr => ?_, fun hr (he : t.regs.e = true) => ?_⟩
  · have ht : t.regs.Narrow := h.narrow ⟨hr.emu, hr.idx⟩
    exact ⟨ht.emu, ht.idx⟩
  · cases full with
    | true => simp [he]
    | false => exact h.paged (hsp rfl hr) he

section
variable {fs : List Field} {s : State}

theorem Confined.pushing (n len : Nat) (u : StackUser) (w : Width) (v : Word) : Confined fs s (s.pushing n len u w v) :=
  ⟨Rest.pushing s n len u w v, State.frame_endQuirk (fun hq h => hq ▸ h.pushed w.bytes) (by
    rw [State.pushAt_regs]
    exact .refl fs _)⟩

theorem Confined.pushPointer (dp : Byte) : Confined fs s (s.pushPointer dp) :=
  ⟨Rest.pushPointer s dp, State.frame_endQuirk (fun hq h => hq ▸ h.pushed 2) (by
    rw [State.pushAt_regs, State.read16Bank0, State.read16_regs]
    exact .refl fs _)⟩

theorem Confined.pulling (n : Nat) (u : StackUser) (w : Width) {f : Word → Regs → Regs}
    (hf : ∀ (v : Word) (r : Regs), r.Frame fs (f v r)) : Confined fs s (s.pulling n u w f) :=
  ⟨Rest.pulling s n u w f, State.frame_endQuirk (fun hq h => hq ▸ h.pulled w.bytes) (by
    rw [State.mapRegs_regs, State.pullAt_regs]
    exact hf _ _)⟩

theorem Confined.call (a : Word) : Confined fs s (s.call a) :=
  ⟨Rest.call s a, State.frame_endQuirk (fun hq h => hq ▸ h.pushed 2) (by
    rw [State.mapRegs_regs, State.pushReturn, State.push16_regs]
    exact Regs.frame_pc _ fs a)⟩

theorem Confined.callIndX (a : Word) : Confined fs s (s.callIndX a) :=
  ⟨Rest.callIndX s a, State.frame_endQuirk (fun hq h => hq ▸ h.pushed 2) (by
    rw [State.mapRegs_regs, State.targetIndX, State.read16_regs, State.pushReturn, State.push16_regs]
    exact Regs.frame_pc _ fs _)⟩

theorem Confined.callLong (a : Addr) : Confined [.pbr] s (s.callLong a) :=
  ⟨Rest.callLong s a, State.frame_endQuirk (fun hq h => hq ▸ h.pushed 3) (by
    rw [State.mapRegs_regs, State.pushReturn, State.push16_regs, State.push8_regs]
    exact Regs.frame_jumpLong _ _ _)⟩

theorem Confined.returnShort : Confined fs s s.returnShort :=
  ⟨Rest.returnShort s, State.frame_endQuirk (fun hq h => hq ▸ h.pulled 2) (by
    rw [State.mapRegs_regs, State.pull16_regs]
    exact Regs.frame_pc _ fs _)⟩

theorem Confined.returnLong : Confined [.pbr] s s.returnLong :=
  ⟨Rest.returnLong s, State.frame_endQuirk (fun hq h => hq ▸ h.pulled 3) (by
    rw [State.mapRegs_regs, State.pull8_regs, State.pull16_regs]
    exact Regs.frame_jumpLong _ _ _)⟩

theorem Regs.frame_enter (r : Regs) : r.Frame [.pbr, .flag .i, .flag .d] r.enter where
  e _ := rfl
  pbr h := absurd List.mem_cons_self h
  dbr _ := rfl
  d _ := rfl
  flag f hf := by
    cases f with
    | i | d => simp at hf
    | m | x | v => rfl
  narrow h := ⟨h.emu, h.idx⟩
  paged := id

theorem Confined.interruptEntry (kind : EntryKind) :
    Confined [.pbr, .flag .i, .flag .d] s (s.interruptEntry kind) :=
  ⟨Rest.interruptEntry s kind, State.frame_endQuirk (fun hq h => hq ▸ h.pushed (s.frameBytes kind).length) (by
    rw [State.loadVector, State.mapRegs_regs, State.pullVector, State.busRead_regs, State.busRead_regs,
      State.mapRegs_regs, State.pushFrame_regs]
    exact (Regs.frame_enter _).trans (Regs.frame_pc _ _ _))⟩

/-- The pulls of a return after that of P. -/
theorem State.frame_returnTail (s : State) (full : Bool) :
    s.regs.Frame [.pbr] (((s.returnPc full).returnBank full).endQuirk full).regs := by
  cases he : s.regs.e with
  | true =>
    refine State.frame_endQuirk (fun hq h => hq ▸ h.pulled 2) ?_
    rw [State.returnBank, if_pos (by simp [State.returnPc, he]), State.returnPc, State.mapRegs_regs, State.pull16_regs]
    exact Regs.frame_pc _ _ _
  | false =>
    refine State.frame_endQuirk (fun hq h => hq ▸ h.pulled 3) ?_
    rw [State.returnBank, if_neg (by simp [State.returnPc, he]), State.returnPc, State.mapRegs_regs, State.pull8_regs,
      State.mapRegs_regs, State.pull16_regs]
    exact Regs.frame_jumpLong _ _ _

theorem Confined.interruptReturn (full : Bool) : Confined (.pbr :: wholeP) s (s.interruptReturn full) := by
  refine ⟨Rest.interruptReturn s full, .trans (r' := (s.returnStatus full).regs) ?_ ?_⟩
  · rw [State.returnStatus, State.mapRegs_regs, State.pull8_regs]
    have h := Regs.frame_normalize { s.regs with s := stackUp (s.regs.e && !full) s.regs.s }
      (Status.ofByte (s.pull8 full).1)
    exact .mono (List.subset_cons_self _ _) ⟨h.e, h.pbr, h.dbr, h.d, h.flag, fun hr => h.narrow ⟨hr.emu, hr.idx⟩,
      fun _ => ((Regs.ok_iff _).mp (Regs.normalize_ok _)).2⟩
  · exact .mono (by simp) ((s.returnStatus full).frame_returnTail full)

end

end Sys2Proof.Machine
end

section
/-! SUPPORT. Every instruction completes and stays within its row of `Writes`, I/O pages or not. -/

namespace Sys2Proof.Machine

/-- The pins after WAI and STP, which alone change a run flag (49_system.md R373, R374). -/
def Pins.halt (p : Pins) : Instr → Pins
  | .wai => { p with readyOut := false }
  | .stp => { p with enabled := false }
  | _ => p

@[simp] theorem Pins.halt_coarse (p : Pins) (i : Instr) : (p.halt i).coarse = p.coarse := by
  unfold Pins.halt
  split <;> rfl

/-- Every instruction completes, its run flags aside within the fields it may write. -/
theorem exec_confined (i : Instr) (s : State) :
    ∃ t fs, exec i s = .next t ∧ Writes i fs ∧ Confined fs { s with pins := s.pins.halt i } t := by
  cases i with
  | ldaDpXInd | ldaSr | ldaDp | ldaDpIndLong | ldaAbs | ldaLong | ldaDpIndY | ldaDpInd | ldaSrIndY | ldaDpX
  | ldaDpIndLongY | ldaAbsY | ldaAbsX | ldaLongX =>
    exact ⟨_, _, rfl, .none _, .readOperand _ _ 0 fun v => s.regs.frame_loadA _ v⟩
  | ldaImmM imm => exact ⟨_, _, rfl, .none _, .immediate imm _ 0 (s.regs.frame_loadA _ imm)⟩
  | ldxDp | ldxAbs | ldxDpY | ldxAbsY => exact ⟨_, _, rfl, .none _, .readOperand _ _ 0 fun v => s.regs.frame_loadX v⟩
  | ldxImmX imm => exact ⟨_, _, rfl, .none _, .immediate imm _ 0 (s.regs.frame_loadX imm)⟩
  | ldyDp | ldyAbs | ldyDpX | ldyAbsX => exact ⟨_, _, rfl, .none _, .readOperand _ _ 0 fun v => s.regs.frame_loadY v⟩
  | ldyImmX imm => exact ⟨_, _, rfl, .none _, .immediate imm _ 0 (s.regs.frame_loadY imm)⟩
  | staDpXInd | staSr | staDp | staDpIndLong | staAbs | staLong | staDpIndY | staDpInd | staSrIndY | staDpX
  | staDpIndLongY | staAbsY | staAbsX | staLongX | stxDp | stxAbs | stxDpY | styDp | styAbs | styDpX | stzDp | stzDpX
  | stzAbs | stzAbsX =>
    exact ⟨_, _, rfl, .none _, .store _ _ _⟩
  | adcDpXInd b | adcSr b | adcDp b | adcDpIndLong b | adcDpIndY b | adcDpInd b | adcSrIndY b
  | adcDpX b | adcDpIndLongY b =>
    exact ⟨_, _, rfl, .sum ⟨0, 0, b, 0, by simp [adcForms]⟩, .adc _⟩
  | adcAbs a | adcAbsY a | adcAbsX a =>
    exact ⟨_, _, rfl, .sum ⟨a, 0, 0, 0, by simp [adcForms]⟩, .adc _⟩
  | adcLong l | adcLongX l =>
    exact ⟨_, _, rfl, .sum ⟨0, l, 0, 0, by simp [adcForms]⟩, .adc _⟩
  | adcImmM imm => exact ⟨_, _, rfl, .sum ⟨0, 0, 0, imm, by simp⟩, .adcImm imm⟩
  | sbcDpXInd b | sbcSr b | sbcDp b | sbcDpIndLong b | sbcDpIndY b | sbcDpInd b | sbcSrIndY b
  | sbcDpX b | sbcDpIndLongY b =>
    exact ⟨_, _, rfl, .sum ⟨0, 0, b, 0, by simp [sbcForms]⟩, .sbc _⟩
  | sbcAbs a | sbcAbsY a | sbcAbsX a =>
    exact ⟨_, _, rfl, .sum ⟨a, 0, 0, 0, by simp [sbcForms]⟩, .sbc _⟩
  | sbcLong l | sbcLongX l =>
    exact ⟨_, _, rfl, .sum ⟨0, l, 0, 0, by simp [sbcForms]⟩, .sbc _⟩
  | sbcImmM imm => exact ⟨_, _, rfl, .sum ⟨0, 0, 0, imm, by simp⟩, .sbcImm imm⟩
  | andDpXInd | andSr | andDp | andDpIndLong | andAbs | andLong | andDpIndY | andDpInd | andSrIndY | andDpX
  | andDpIndLongY | andAbsY | andAbsX | andLongX =>
    exact ⟨_, _, rfl, .none _, .alu _ _ List.not_mem_nil List.not_mem_nil keeps_aluAnd⟩
  | andImmM imm => exact ⟨_, _, rfl, .none _, .aluImm imm _ List.not_mem_nil List.not_mem_nil keeps_aluAnd⟩
  | oraDpXInd | oraSr | oraDp | oraDpIndLong | oraAbs | oraLong | oraDpIndY | oraDpInd | oraSrIndY | oraDpX
  | oraDpIndLongY | oraAbsY | oraAbsX | oraLongX =>
    exact ⟨_, _, rfl, .none _, .alu _ _ List.not_mem_nil List.not_mem_nil keeps_aluOra⟩
  | oraImmM imm => exact ⟨_, _, rfl, .none _, .aluImm imm _ List.not_mem_nil List.not_mem_nil keeps_aluOra⟩
  | eorDpXInd | eorSr | eorDp | eorDpIndLong | eorAbs | eorLong | eorDpIndY | eorDpInd | eorSrIndY | eorDpX
  | eorDpIndLongY | eorAbsY | eorAbsX | eorLongX =>
    exact ⟨_, _, rfl, .none _, .alu _ _ List.not_mem_nil List.not_mem_nil keeps_aluEor⟩
  | eorImmM imm => exact ⟨_, _, rfl, .none _, .aluImm imm _ List.not_mem_nil List.not_mem_nil keeps_aluEor⟩
  | cmpDpXInd | cmpSr | cmpDp | cmpDpIndLong | cmpAbs | cmpLong | cmpDpIndY | cmpDpInd | cmpSrIndY | cmpDpX
  | cmpDpIndLongY | cmpAbsY | cmpAbsX | cmpLongX | cpxDp | cpxAbs | cpyDp | cpyAbs =>
    exact ⟨_, _, rfl, .none _, .readOperand _ _ 0 fun v => s.regs.frame_compare _ _ v⟩
  | cmpImmM imm | cpxImmX imm | cpyImmX imm =>
    exact ⟨_, _, rfl, .none _, .immediate imm _ 0 (s.regs.frame_compare _ _ imm)⟩
  | bitDp b | bitDpX b =>
    exact ⟨_, _, rfl, .sum ⟨0, 0, b, 0, by simp [bitForms]⟩, .readOperand _ _ 0 fun v => s.regs.frame_bitMem v⟩
  | bitAbs a | bitAbsX a =>
    exact ⟨_, _, rfl, .sum ⟨a, 0, 0, 0, by simp [bitForms]⟩, .readOperand _ _ 0 fun v => s.regs.frame_bitMem v⟩
  | bitImmM imm => exact ⟨_, _, rfl, .none _, .immediate imm _ 0 (s.regs.frame_bitImm imm)⟩
  | aslDp | aslAbs | aslDpX | aslAbsX => exact ⟨_, _, rfl, .none _, .modify _ keeps_rmwAsl⟩
  | lsrDp | lsrAbs | lsrDpX | lsrAbsX => exact ⟨_, _, rfl, .none _, .modify _ keeps_rmwLsr⟩
  | rolDp | rolAbs | rolDpX | rolAbsX => exact ⟨_, _, rfl, .none _, .modify _ keeps_rmwRol⟩
  | rorDp | rorAbs | rorDpX | rorAbsX => exact ⟨_, _, rfl, .none _, .modify _ keeps_rmwRor⟩
  | incDp | incAbs | incDpX | incAbsX => exact ⟨_, _, rfl, .none _, .modify _ keeps_rmwInc⟩
  | decDp | decAbs | decDpX | decAbsX => exact ⟨_, _, rfl, .none _, .modify _ keeps_rmwDec⟩
  | tsbDp | tsbAbs => exact ⟨_, _, rfl, .none _, .modify _ keeps_rmwTsb⟩
  | trbDp | trbAbs => exact ⟨_, _, rfl, .none _, .modify _ keeps_rmwTrb⟩
  | aslAcc => exact ⟨_, _, rfl, .none _, .modifyAcc keeps_rmwAsl⟩
  | lsrAcc => exact ⟨_, _, rfl, .none _, .modifyAcc keeps_rmwLsr⟩
  | rolAcc => exact ⟨_, _, rfl, .none _, .modifyAcc keeps_rmwRol⟩
  | rorAcc => exact ⟨_, _, rfl, .none _, .modifyAcc keeps_rmwRor⟩
  | incAcc => exact ⟨_, _, rfl, .none _, .modifyAcc keeps_rmwInc⟩
  | decAcc => exact ⟨_, _, rfl, .none _, .modifyAcc keeps_rmwDec⟩
  | inx | dex => exact ⟨_, _, rfl, .none _, .implied 2 (s.regs.frame_loadX _)⟩
  | iny | dey => exact ⟨_, _, rfl, .none _, .implied 2 (s.regs.frame_loadY _)⟩
  | bcc disp | bcs disp | beq disp | bne disp | bmi disp | bpl disp | bvc disp | bvs disp | bra disp =>
    exact ⟨_, _, rfl, .none _, .branch _ disp⟩
  | brl => exact ⟨_, _, rfl, .none _, (Rest.mapRegs s _).trans (Rest.settle _ s 4 3), s.regs.frame_pc _ _⟩
  | jmpPcAbs => exact ⟨_, _, rfl, .none _, .jump 3 (Rest.refl s) rfl⟩
  | jmpPcInd => exact ⟨_, _, rfl, .none _, .jump 5 (Rest.read16 s _ _ _) (s.read16_regs _ _ _)⟩
  | jmpPcIndX => exact ⟨_, _, rfl, .none _, .jump 6 (Rest.read16 s _ _ _) (s.read16_regs _ _ _)⟩
  | jmlPcLong l => exact ⟨_, _, rfl, .jmlPcLong l, .jumpLong 4 4 (Rest.refl s) rfl⟩
  | jmlPcIndLong a => exact ⟨_, _, rfl, .jmlPcIndLong a, .jumpLong 6 3 (Rest.read24 s _) (s.read24_regs _)⟩
  | jsrPcAbs a => exact ⟨_, _, rfl, .none _, .call a⟩
  | jsrPcIndX a => exact ⟨_, _, rfl, .none _, .callIndX a⟩
  | jsl a => exact ⟨_, _, rfl, .jsl a, .callLong a⟩
  | rts => exact ⟨_, _, rfl, .none _, .returnShort⟩
  | rtl => exact ⟨_, _, rfl, .rtl, .returnLong⟩
  | mvn dst src => exact ⟨_, _, rfl, .mvn dst src, .blockMove dst src 1⟩
  | mvp dst src => exact ⟨_, _, rfl, .mvp dst src, .blockMove dst src (-1)⟩
  | brk sig => exact ⟨_, _, rfl, .brk sig, .settle (.interruptEntry .brk)⟩
  | cop sig => exact ⟨_, _, rfl, .cop sig, .settle (.interruptEntry .cop)⟩
  | rti => exact ⟨_, _, rfl, .rti, .settle (.interruptReturn _)⟩
  | wai | stp => exact ⟨_, _, rfl, .none _, .settle (.of_regs_eq (Rest.refl _) rfl)⟩
  | wdm => exact ⟨_, _, rfl, .none _, .settle (.of_regs_eq (Rest.refl s) rfl)⟩
  | pea | per | pha | phx | phy | php | phb | phd | phk => exact ⟨_, _, rfl, .none _, .pushing _ _ _ _ _⟩
  | pei dp => exact ⟨_, _, rfl, .none _, .pushPointer dp⟩
  | pla => exact ⟨_, _, rfl, .none _, .pulling _ _ _ fun v r => r.frame_loadA _ v⟩
  | plx => exact ⟨_, _, rfl, .none _, .pulling _ _ _ fun v r => r.frame_loadX v⟩
  | ply => exact ⟨_, _, rfl, .none _, .pulling _ _ _ fun v r => r.frame_loadY v⟩
  | plp => exact ⟨_, _, rfl, .plp, .pulling _ _ _ fun _ r => r.frame_normalize _⟩
  | plb => exact ⟨_, _, rfl, .plb, .pulling _ _ _ fun v r => r.frame_pullB v⟩
  | pld => exact ⟨_, _, rfl, .pld, .pulling _ _ _ fun v r => r.frame_setD v⟩
  | rep mask => exact ⟨_, _, rfl, .rep mask, .mapStatusByte _⟩
  | sep mask => exact ⟨_, _, rfl, .sep mask, .mapStatusByte _⟩
  | clc | sec => exact ⟨_, _, rfl, .none _, .mapStatus fun k => by cases k <;> rfl⟩
  | cli => exact ⟨_, _, rfl, .cli, .mapFlag .i nofun nofun fun k hk => by cases k <;> simp_all [Status.flag]⟩
  | sei => exact ⟨_, _, rfl, .sei, .mapFlag .i nofun nofun fun k hk => by cases k <;> simp_all [Status.flag]⟩
  | cld => exact ⟨_, _, rfl, .cld, .mapFlag .d nofun nofun fun k hk => by cases k <;> simp_all [Status.flag]⟩
  | sed => exact ⟨_, _, rfl, .sed, .mapFlag .d nofun nofun fun k hk => by cases k <;> simp_all [Status.flag]⟩
  | clv => exact ⟨_, _, rfl, .clv, .mapFlag .v nofun nofun fun k hk => by cases k <;> simp_all [Status.flag]⟩
  | nop => exact ⟨_, _, rfl, .none _, .implied 2 (.refl _ _)⟩
  | xce => exact ⟨_, _, rfl, .xce, .implied 2 s.regs.frame_exchangeCE⟩
  | tax | tsx => exact ⟨_, _, rfl, .none _, .implied 2 (s.regs.frame_loadX _)⟩
  | tay => exact ⟨_, _, rfl, .none _, .implied 2 (s.regs.frame_loadY _)⟩
  | txa | tya => exact ⟨_, _, rfl, .none _, .implied 2 (s.regs.frame_loadA _ _)⟩
  | txs | tcs => exact ⟨_, _, rfl, .none _, .implied 2 (s.regs.frame_setS _)⟩
  | txy =>
    exact ⟨_, _, rfl, .none _, .implied 2 (.index s.regs s.regs.x s.regs.x (fun f => Status.setNZAt_flag _ _ _ f)
      fun h hx => ⟨(h.idx hx).1, (h.idx hx).1⟩)⟩
  | tyx =>
    exact ⟨_, _, rfl, .none _, .implied 2 (.index s.regs s.regs.y s.regs.y (fun f => Status.setNZAt_flag _ _ _ f)
      fun h hx => ⟨(h.idx hx).2, (h.idx hx).2⟩)⟩
  | tcd => exact ⟨_, _, rfl, .tcd, .implied 2 (s.regs.frame_setD _)⟩
  | tdc | tsc => exact ⟨_, _, rfl, .none _, .implied 2 (s.regs.frame_setA16 _)⟩
  | xba => exact ⟨_, _, rfl, .none _, .implied 3 s.regs.frame_exchangeA⟩

end Sys2Proof.Machine
end

section
/-! SUPPORT. Who writes which register, run flag and flag of P (10_state.md R24 to R26, R31, R35, R42, R43). -/

namespace Sys2Proof.Machine

/-! ## The rows of `Writes`, by field -/

section
variable {i : Instr} {fs : List Field}

theorem Writes.of_e (h : Writes i fs) (hf : .e ∈ fs) : i = .xce := by
  cases h <;> simp at hf ⊢

theorem Writes.of_pbr (h : Writes i fs) (hf : .pbr ∈ fs) :
    (∃ l, i = .jmlPcLong l ∨ i = .jsl l) ∨ (∃ a, i = .jmlPcIndLong a) ∨ i = .rtl ∨ i = .rti ∨
      ∃ b, i = .brk b ∨ i = .cop b := by
  cases h <;> simp at hf ⊢

theorem Writes.of_dbr (h : Writes i fs) (hf : .dbr ∈ fs) : i = .plb ∨ ∃ b b', i = .mvn b b' ∨ i = .mvp b b' := by
  cases h <;> simp at hf ⊢

theorem Writes.of_d (h : Writes i fs) (hf : .d ∈ fs) : i = .tcd ∨ i = .pld := by
  cases h <;> simp at hf ⊢

/-- The instructions that write P as a whole. -/
def WritesP (i : Instr) : Prop := (∃ b, i = .rep b ∨ i = .sep b) ∨ i = .plp ∨ i = .rti

/-- The instructions that enter an exception. -/
def EntryInstr (i : Instr) : Prop := ∃ b, i = .brk b ∨ i = .cop b

theorem Writes.of_flag_i (h : Writes i fs) (hf : .flag .i ∈ fs) : i = .sei ∨ i = .cli ∨ WritesP i ∨ EntryInstr i := by
  cases h <;> simp [WritesP, EntryInstr] at hf ⊢

theorem Writes.of_flag_d (h : Writes i fs) (hf : .flag .d ∈ fs) : i = .sed ∨ i = .cld ∨ WritesP i ∨ EntryInstr i := by
  cases h <;> simp [WritesP, EntryInstr] at hf ⊢

theorem Writes.of_flag_m (h : Writes i fs) (hf : .flag .m ∈ fs) : WritesP i ∨ i = .xce := by
  cases h <;> simp [WritesP] at hf ⊢

theorem Writes.of_flag_x (h : Writes i fs) (hf : .flag .x ∈ fs) : WritesP i ∨ i = .xce := by
  cases h <;> simp [WritesP] at hf ⊢

theorem Writes.of_flag_v (h : Writes i fs) (hf : .flag .v ∈ fs) : WritesP i ∨ i = .clv ∨ SumForm i := by
  cases h with
  | sum h => exact .inr (.inr h)
  | _ => simp [WritesP] at hf ⊢

end

/-! ## What an instruction that completes has done -/

theorem exec_next {i : Instr} {s t : State} (h : exec i s = .next t) :
    ∃ fs, Writes i fs ∧ Confined fs { s with pins := s.pins.halt i } t := by
  obtain ⟨t', fs, h', hw, hc⟩ := exec_confined i s
  cases h'.symm.trans h
  exact ⟨fs, hw, hc⟩

theorem Pins.halt_readyOut (p : Pins) {i : Instr} (h : (p.halt i).readyOut ≠ p.readyOut) : i = .wai := by
  unfold Pins.halt at h
  split at h
  · rfl
  · exact absurd rfl h
  · exact absurd rfl h

theorem Pins.halt_enabled (p : Pins) {i : Instr} (h : (p.halt i).enabled ≠ p.enabled) : i = .stp := by
  unfold Pins.halt at h
  split at h
  · exact absurd rfl h
  · rfl
  · exact absurd rfl h

/-- Settles O17: a field that changed is in the row of the instruction, and the run flags are those of `Pins.halt`. -/
theorem registerWriters : Obligations.RegisterWriters := by
  intro i s t h
  obtain ⟨fs, hw, hrest, hframe⟩ := exec_next h
  refine ⟨fun hne => hw.of_e ?_, fun hne => hw.of_pbr ?_, fun hne => hw.of_dbr ?_, fun hne => hw.of_d ?_,
    fun hne => s.pins.halt_readyOut (hrest.mode.readyOut ▸ hne),
    fun hne => s.pins.halt_enabled (hrest.mode.enabled ▸ hne)⟩
  · exact not_imp_comm.mp hframe.e hne
  · exact not_imp_comm.mp hframe.pbr hne
  · exact not_imp_comm.mp hframe.dbr hne
  · exact not_imp_comm.mp hframe.d hne

/-- Settles O18: a flag that changed is in the row of the instruction. -/
theorem flagWriters : Obligations.FlagWriters := by
  intro i s t h
  obtain ⟨fs, hw, -, hframe⟩ := exec_next h
  have changed : ∀ f : Flag, t.regs.p.flag f ≠ s.regs.p.flag f → .flag f ∈ fs :=
    fun f => not_imp_comm.mp (hframe.flag f)
  exact ⟨fun hne => hw.of_flag_i (changed .i hne), fun hne => hw.of_flag_d (changed .d hne),
    fun hne => hw.of_flag_m (changed .m hne), fun hne => hw.of_flag_x (changed .x hne),
    fun hne => hw.of_flag_v (changed .v hne)⟩

end Sys2Proof.Machine
end

section
/-! SUPPORT. Every step keeps the invariant of the machine (10_state.md R36, R44, 70_reset_and_hazards.md R460). -/

namespace Sys2Proof.Machine

/-! ## What keeps the invariant -/

/-- Bus accesses, cycles and changes of registers keep the invariant where the registers end lawful, whatever the pins
and the registers were set to before them, and whatever the coarse state is set to after. -/
theorem State.Inv.of_rest {s t : State} {r : Regs} {p q : Pins} (h : s.Inv)
    (hr : Rest { s with regs := r, pins := p } t) (hok : t.regs.Ok) (hq : q.coarse = .reset ∨ q.coarse = .execute) :
    State.Inv { t with pins := q } where
  regs := hok
  coarse := hq
  steps := by
    have h1 := hr.fastStep
    have h2 := hr.slowStep
    dsimp only at h1 h2 ⊢
    rw [h1, h2]
    exact h.steps
  mem := hr.mem h.mem
  bankMap := hr.bankMap h.bankMap
  readPages := hr.readPages h.readPages
  writePages := hr.writePages h.writePages

/-- An operation within a frame keeps the invariant, the run flags aside. -/
theorem State.Inv.of_confined {fs : List Field} {s t : State} {p : Pins} (h : s.Inv) (hp : p.coarse = s.pins.coarse)
    (hc : Confined fs { s with pins := p } t) : t.Inv :=
  h.of_rest (q := t.pins) hc.rest (hc.frame.ok h.regs) (by rw [hc.rest.mode.coarse, hp]; exact h.coarse)

theorem State.Inv.internal {s : State} (h : s.Inv) (n : Nat) : (s.internal n).Inv :=
  h.of_confined (fs := []) rfl (.of_regs_eq (Rest.internal s n) rfl)

theorem State.Inv.awake {s : State} (h : s.Inv) : s.awake.Inv :=
  h.of_confined (fs := []) (p := s.awake.pins) rfl (.of_regs_eq (Rest.refl _) rfl)

/-! ## The cases of a step (60_exceptions.md R380) -/

/-- `ResetForce()` imposes the invariants of 10_state.md R36 (70_reset_and_hazards.md R432). -/
theorem Regs.resetForce_ok (r : Regs) : r.resetForce.Ok :=
  ⟨fun _ => ⟨rfl, rfl, by simp [Regs.resetForce]⟩, fun _ => by simp [Regs.resetForce]⟩

@[simp] theorem Pins.countHold_coarse (p : Pins) : p.countHold.coarse = p.coarse := by
  unfold Pins.countHold
  split
  · rfl
  · split <;> rfl

theorem State.Inv.heldInReset {s : State} (h : s.Inv) : s.heldInReset.Inv :=
  h.of_rest (Rest.internal s.resetForce 1) s.regs.resetForce_ok (.inl (Pins.countHold_coarse _))

theorem State.Inv.resetSequence {s : State} (h : s.Inv) : s.resetSequence.Inv := by
  refine h.of_rest ((Rest.internal s.resetForce 7).trans (Rest.loadVector _ 0xFFFC)) ?_ (.inr rfl)
  rw [State.loadVector, State.mapRegs_regs, State.pullVector, State.busRead_regs, State.busRead_regs]
  exact (Regs.frame_pc _ [] _).ok s.regs.resetForce_ok

/-- An NMI or an IRQ is taken. -/
theorem State.Inv.entry {s : State} (h : s.Inv) (kind : EntryKind) (p q : Pins) (n : Nat) (hq : q.coarse = .execute) :
    let s1 : State := { s with pins := p }
    State.Inv { (s1.interruptEntry kind).settle n 0 s1 with pins := q } :=
  have hc := Confined.settle (Confined.interruptEntry (s := { s with pins := p }) kind)
  h.of_rest hc.rest (hc.frame.ok h.regs) (.inr hq)

theorem State.Inv.takeNmi {s : State} (h : s.Inv) : s.takeNmi.Inv := h.entry .nmi _ _ _ rfl

theorem State.Inv.takeIrq {s : State} (h : s.Inv) : s.takeIrq.Inv := h.entry .irq _ _ _ rfl

theorem Rest.fetchInstr (s : State) :
    Rest { s with fetchPbr := s.regs.pbr, fetchPc := s.regs.pc } s.fetchInstr.state := by
  unfold State.fetchInstr
  exact (Rest.fetchByte _ _).trans (Rest.fetchOperands _ _)

theorem State.Inv.fetchInstr {s : State} (h : s.Inv) : s.fetchInstr.state.Inv := by
  have h0 : State.Inv { s with fetchPbr := s.regs.pbr, fetchPc := s.regs.pc } := ⟨h.1, h.2, h.3, h.4, h.5, h.6, h.7⟩
  refine h0.of_confined (fs := []) rfl ⟨Rest.fetchInstr s, ?_⟩
  rw [State.fetchInstr_regs]
  exact s.regs.frame_pc [] _

theorem State.Inv.exec {i : Instr} {s t : State} (h : s.Inv) (he : exec i s = .next t) : t.Inv := by
  obtain ⟨fs, -, hc⟩ := exec_next he
  exact h.of_confined (s.pins.halt_coarse i) hc

theorem State.Inv.recordTrace {s : State} (h : s.Inv) (f : Fetched) (s0 : State) : (s.recordTrace f s0).Inv :=
  ⟨h.regs, h.coarse, h.steps, h.mem, h.bankMap, h.readPages, h.writePages⟩

theorem State.Inv.runInstr {s t : State} (h : s.Inv) (hs : s.runInstr = .next t) : t.Inv := by
  unfold State.runInstr at hs
  dsimp only at hs
  split at hs
  · rename_i u hu
    cases hs
    exact (h.fetchInstr.exec hu).recordTrace _ _
  · cases hs
  · cases hs

theorem State.Inv.runCase {s t : State} (h : s.Inv) (hs : s.runCase = .next t) : t.Inv := by
  unfold State.runCase at hs
  split at hs
  · cases hs; exact h.takeNmi
  · split at hs
    · cases hs; exact h.takeIrq
    · exact h.runInstr hs

/-- Settles O13: each case of a step keeps the invariant. -/
theorem stepKeepsInv : Obligations.StepKeepsInv := by
  intro s t h hs
  unfold step at hs
  split at hs
  · cases hs; exact h.heldInReset
  · split at hs
    · cases hs; exact h.resetSequence
    · split at hs
      · cases hs; exact h.internal 1
      · split at hs
        · cases hs; exact h.internal 1
        · exact h.awake.runCase hs

end Sys2Proof.Machine
end

section
/-! SUPPORT. One read and one write of the bus: what each gives for every target its address may resolve to (20_memory.md
R75, R76), and what the collaborator's answer may change (R85, R86). -/

namespace Sys2Proof.Machine

/-! ## The clock of one access (70_reset_and_hazards.md R462) -/

/-- Slow storage is the two slow-RAM banks (20_memory.md R79). -/
theorem pageSlow_eq (pg : Page) : pageSlow pg = decide (pg.store = .slow .e0 ∨ pg.store = .slow .e1) := by
  rcases pg with ⟨store, page⟩
  cases store with
  | fast b => simp [pageSlow]
  | slow b => cases b <;> simp [pageSlow]
  | rom b => simp [pageSlow]

/-- One cycle costs the slow step where it is slow or the speed gate is set. -/
theorem Clock.charge_one (c : Clock) (slow : Bool) :
    c.charge slow 1 =
      { c with
        ts := c.ts + (if c.speedGate = true ∨ slow = true then c.slowStep else c.fastStep)
        cyclesSpent := c.cyclesSpent + 1 } := by
  simp only [Clock.charge, Clock.step, Nat.one_mul, Bool.or_eq_true, or_comm]

/-! ## The targets of a read -/

section
variable {s : State} {a : Addr} (k : AccessKind)

theorem State.busRead_io (h : s.resolve .read a = .io) :
    s.busRead a k =
      (Config.mmioRead s.bus.ioCount (bankOf a) (offsetOf a) k,
        if k = .noOp then s.busCycle .io else (s.busCycle .io).applyIo (.read (bankOf a) (offsetOf a) k)) := by
  simp only [State.busRead, h]

theorem State.busRead_empty (h : s.resolve .read a = .empty) : s.busRead a k = (0x00, s.busCycle .empty) := by
  simp only [State.busRead, h]

theorem State.busRead_page {pg : Page} {ro : Bool} {sh : Option Page} (h : s.resolve .read a = .mem pg ro sh) :
    s.busRead a k = (s.bus.mem.byte (pageLoc pg a), s.busCycle (.mem pg ro none)) := by
  simp only [State.busRead, h]

end

/-- Settles O20: one case for each target. -/
theorem busReads : Obligations.BusReads := by
  intro s a k
  refine ⟨s.busRead_mem a k, s.busRead_cycles a k, ?_⟩
  split
  case h_1 h =>
    rw [State.busRead_io k h]
    refine ⟨rfl, s.clock.charge true 1, ?_, rfl⟩
    simp [Clock.charge_one]
  case h_2 h =>
    rw [State.busRead_empty k h]
    refine ⟨rfl, rfl, ?_⟩
    simp [Clock.charge_one, targetSlow]
  case h_3 pg ro sh h =>
    rw [State.busRead_page k h]
    refine ⟨rfl, rfl, ?_⟩
    simp [Clock.charge_one, targetSlow, pageSlow_eq]

/-! ## The targets of a write -/

/-- A write of the core to a page: the ROM image stays (20_memory.md R79). -/
theorem Memory.write_page (m : Memory) (pg : Page) (a : Addr) (v : Byte) :
    m.write (pageLoc pg a) v =
      match pg.store with
      | .rom _ => m
      | st => m.put { store := st, offset := joinWord pg.page (lowByte (offsetOf a)) } v := by
  rcases pg with ⟨store, page⟩
  cases store <;> rfl

section
variable {s : State} {a : Addr} (k : AccessKind) (v : Byte)

theorem State.busWrite_io (h : s.resolve .write a = .io) :
    s.busWrite a k v = (s.busCycle .io).applyIo (.write (bankOf a) (offsetOf a) v) := by
  simp only [State.busWrite, h]

/-- Away from the I/O gate a write is one cycle and what its target does to the memory. -/
theorem State.busWrite_storage {t : Target} (h : s.resolve .write a = t) (ht : t ≠ .io) :
    s.busWrite a k v =
      { s with
        clock := s.clock.charge (targetSlow t) 1
        bus := { s.bus with mem := s.bus.mem.writeTarget t a v } } := by
  unfold State.busWrite
  rw [h]
  cases t with
  | io => exact absurd rfl ht
  | empty => rfl
  | mem pg ro sh => rfl

end

/-- Settles O21: one case for each target; a page that may be written is written as `Memory.write_page` says. -/
theorem busWrites : Obligations.BusWrites := by
  intro s a k v slow charged put
  have hclock : ∀ b, s.clock.charge b 1 = charged b := s.clock.charge_one
  have hslow : ∀ pg, pageSlow pg = slow pg := pageSlow_eq
  have hput : ∀ (m : Memory) pg, m.write (pageLoc pg a) v = put m pg := fun m pg => m.write_page pg a v
  split
  case h_1 h => exact ⟨by rw [State.busWrite_io k v h, ← hclock]; rfl, by rw [State.busWrite_mem, h]; rfl⟩
  case h_2 h =>
    rw [State.busWrite_storage k v h nofun, ← hclock]
    rfl
  case h_3 pg h =>
    rw [State.busWrite_storage k v h nofun, ← hslow, ← hclock]
    simp only [targetSlow, Option.any_none, Bool.or_false, Memory.writeTarget]
  case h_4 pg sh h =>
    rw [State.busWrite_storage k v h nofun, ← hslow, ← hslow, ← hclock]
    rfl
  case h_5 pg h =>
    rw [State.busWrite_storage k v h nofun, ← hslow, ← hclock, ← hput]
    simp only [targetSlow, Option.any_none, Bool.or_false, Memory.writeTarget]
  case h_6 pg sh h =>
    rw [State.busWrite_storage k v h nofun, ← hslow, ← hslow, ← hclock, ← hput, ← hput]
    rfl

/-- Settles O22: `applyIo` writes the two requests, the speed gate and the map. -/
theorem ioAccessEffects : Obligations.IoAccessEffects := fun s x =>
  ⟨s.applyIo_regs x, s.applyIo_mem x, rfl, rfl, rfl, rfl, rfl, rfl, rfl, rfl, s.applyIo_params x⟩

end Sys2Proof.Machine
end

section
/-! SUPPORT. No instruction takes a cycle back, and only the storing ones change the memory (20_memory.md R75,
70_reset_and_hazards.md R460): one relation, proved for every operation, I/O pages or not. -/

namespace Sys2Proof.Machine

/-! ## The relation -/

/-- `t` comes from `s` with no cycle taken back, the memory as it was unless `stores`. -/
structure Advances (stores : Prop) (s t : State) : Prop where
  cycles : s.clock.cyclesSpent ≤ t.clock.cyclesSpent
  mem : ¬stores → t.bus.mem = s.bus.mem

section
variable {stores : Prop} {s t u : State}

theorem Advances.refl (s : State) : Advances stores s s := ⟨Nat.le_refl _, fun _ => rfl⟩

theorem Advances.trans (h : Advances stores s t) (h' : Advances stores t u) : Advances stores s u :=
  ⟨h.cycles.trans h'.cycles, fun k => (h'.mem k).trans (h.mem k)⟩

/-- An operation that costs `n` cycles and stores nothing. -/
theorem Advances.of_read {n : Nat} (hc : t.clock.cyclesSpent = s.clock.cyclesSpent + n)
    (hm : t.bus.mem = s.bus.mem) : Advances stores s t := ⟨hc ▸ Nat.le_add_right _ n, fun _ => hm⟩

/-- An operation that costs `n` cycles and may store. -/
theorem Advances.of_write {n : Nat} (hs : stores) (hc : t.clock.cyclesSpent = s.clock.cyclesSpent + n) :
    Advances stores s t := ⟨hc ▸ Nat.le_add_right _ n, fun k => absurd hs k⟩

/-! ## The operations that store nothing -/

theorem Advances.mapRegs (h : Advances stores s t) (f : Regs → Regs) : Advances stores s (t.mapRegs f) :=
  ⟨h.cycles, h.mem⟩

theorem Advances.pins (s : State) (p : Pins) : Advances stores s { s with pins := p } := ⟨Nat.le_refl _, fun _ => rfl⟩

theorem Advances.internal (h : Advances stores s t) (n : Nat) : Advances stores s (t.internal n) :=
  h.trans (.of_read rfl rfl)

theorem Advances.settle (h : Advances stores s t) (a b : Nat) (s0 : State) : Advances stores s (t.settle a b s0) :=
  h.internal _

theorem Advances.endQuirk (h : Advances stores s t) (full : Bool) : Advances stores s (t.endQuirk full) := by
  unfold State.endQuirk
  split
  · exact ⟨h.cycles, h.mem⟩
  · exact h

theorem Advances.busRead (s : State) (a : Addr) (k : AccessKind) : Advances stores s (s.busRead a k).2 :=
  .of_read (s.busRead_cycles a k) (s.busRead_mem a k)

theorem Advances.read16 (s : State) (b : Byte) (p : Bool) (o : Word) : Advances stores s (s.read16 b p o).2 :=
  (Advances.busRead s _ _).trans (.busRead _ _ _)

theorem Advances.read24 (s : State) (o : Word) : Advances stores s (s.read24Bank0 o).2 :=
  ((Advances.busRead s _ _).trans (.busRead _ _ _)).trans (.busRead _ _ _)

theorem Advances.effective (s : State) (md : Mode) : Advances stores s (s.effective md).2 := by
  cases md with
  | abs | long | dp | absX | longX | absY | dpX | dpY | sr => exact .refl s
  | dpInd | dpXInd | dpIndY | srIndY => exact .read16 s 0x00 _ _
  | dpIndLong | dpIndLongY => exact .read24 s _

theorem Advances.readData (s : State) (w : Width) (e : Ea) : Advances stores s (s.readData w e).2 := by
  cases w
  · exact .busRead s _ _
  · exact (Advances.busRead s _ _).trans (.busRead _ _ _)

theorem Advances.pull8 (s : State) (full : Bool) : Advances stores s (s.pull8 full).2 :=
  .of_read (s.pull8_cycles full) (State.busRead_mem _ _ _)

theorem Advances.pull16 (s : State) (full : Bool) : Advances stores s (s.pull16 full).2 :=
  (Advances.pull8 s full).trans (.pull8 _ full)

theorem Advances.pullAt (s : State) (full : Bool) (w : Width) : Advances stores s (s.pullAt full w).2 := by
  cases w
  · exact .pull8 s full
  · exact .pull16 s full

theorem Advances.returnStatus (s : State) (full : Bool) : Advances stores s (s.returnStatus full) := by
  unfold State.returnStatus
  exact (Advances.pull8 s full).mapRegs _

theorem Advances.returnPc (s : State) (full : Bool) : Advances stores s (s.returnPc full) := by
  unfold State.returnPc
  exact (Advances.pull16 s full).mapRegs _

theorem Advances.returnBank (s : State) (full : Bool) : Advances stores s (s.returnBank full) := by
  unfold State.returnBank
  split
  · exact .refl s
  · exact (Advances.pull8 s full).mapRegs _

theorem Advances.interruptReturn (s : State) (full : Bool) : Advances stores s (s.interruptReturn full) :=
  (((Advances.returnStatus s full).trans (.returnPc _ full)).trans (.returnBank _ full)).endQuirk full

/-! ## The shapes of instructions that store nothing -/

theorem Advances.readOperand (s : State) (md : Mode) (w : Width) (n : Nat) (f : Word → Regs → Regs) :
    Advances stores s (s.readOperand md w n f) :=
  (((Advances.effective s md).trans (.readData _ w _)).mapRegs _).settle _ _ s

theorem Advances.alu (s : State) (op : AluOp) (n : Nat) (md : Mode) : Advances stores s (s.alu op n md) :=
  .readOperand s _ _ _ _

theorem Advances.implied (s : State) (n : Nat) (f : Regs → Regs) : Advances stores s (s.implied n f) :=
  ((Advances.refl s).mapRegs f).settle n 1 s

theorem Advances.immediate (s : State) (imm : Word) (w : Width) (n : Nat) (f : Word → Regs → Regs) :
    Advances stores s (s.immediate imm w n f) := ((Advances.refl s).mapRegs _).settle _ _ s

theorem Advances.branch (s : State) (cond : Bool) (disp : Byte) : Advances stores s (s.branch cond disp) := by
  unfold State.branch
  dsimp only
  split
  · exact ((Advances.refl s).mapRegs _).settle _ _ s
  · exact (Advances.refl s).settle _ _ s

theorem Advances.jump (n : Nat) {v : Word × State} (h : Advances stores s v.2) : Advances stores s (s.jump n v) :=
  (h.mapRegs _).settle n 3 s

theorem Advances.jumpLong (n len : Nat) {v : Addr × State} (h : Advances stores s v.2) :
    Advances stores s (s.jumpLong n len v) := (h.mapRegs _).settle n len s

theorem Advances.returnShort (s : State) : Advances stores s s.returnShort :=
  (((Advances.pull16 s _).mapRegs _).endQuirk _).settle 6 1 s

theorem Advances.returnLong (s : State) : Advances stores s s.returnLong :=
  ((((Advances.pull16 s _).trans (.pull8 _ _)).mapRegs _).endQuirk _).settle 6 1 s

theorem Advances.pulling (s : State) (n : Nat) (u : StackUser) (w : Width) (f : Word → Regs → Regs) :
    Advances stores s (s.pulling n u w f) := (((Advances.pullAt s _ w).mapRegs _).endQuirk _).settle n 1 s

/-! ## The shapes of instructions that store -/

theorem Advances.store (hs : stores) (s : State) (md : Mode) (w : Width) (v : Word) :
    Advances stores s (s.store md w v) :=
  ((Advances.effective s md).trans (.of_write hs (State.writeData_cycles _ w _ v))).settle _ _ s

theorem Advances.modify (hs : stores) (s : State) (md : Mode) (op : RmwOp) : Advances stores s (s.modify md op) := by
  have hr : Advances stores s ((s.effective md).2.readData s.regs.p.widthM (s.effective md).1).2 :=
    (Advances.effective s md).trans (.readData _ _ _)
  exact (((hr.internal 1).trans (.of_write hs (State.writeBack_cycles _ _ _ _))).mapRegs _).settle _ _ s

theorem Advances.pushing (hs : stores) (s : State) (n len : Nat) (u : StackUser) (w : Width) (v : Word) :
    Advances stores s (s.pushing n len u w v) :=
  ((Advances.of_write hs (s.pushAt_cycles _ w v)).endQuirk _).settle n len s

theorem Advances.pushPointer (hs : stores) (s : State) (dp : Byte) : Advances stores s (s.pushPointer dp) :=
  (((Advances.read16 s _ _ _).trans (.of_write hs (State.pushAt_cycles _ _ .w16 _))).endQuirk _).settle _ 2 s

theorem Advances.call (hs : stores) (s : State) (a : Word) : Advances stores s (s.call a) :=
  (((Advances.of_write hs (s.push16_cycles _ _)).mapRegs _).endQuirk _).settle 6 3 s

theorem Advances.callIndX (hs : stores) (s : State) (a : Word) : Advances stores s (s.callIndX a) :=
  ((((Advances.of_write hs (s.push16_cycles _ _)).trans (.read16 _ _ _ _)).mapRegs _).endQuirk _).settle 8 3 s

theorem Advances.callLong (hs : stores) (s : State) (a : Addr) : Advances stores s (s.callLong a) :=
  ((((Advances.of_write hs (s.push8_cycles _ _)).trans (.of_write hs (State.push16_cycles _ _ _))).mapRegs _).endQuirk
    _).settle 8 4 s

theorem Advances.blockMove (hs : stores) (s : State) (dst src : Byte) (delta : Word) :
    Advances stores s (s.blockMove dst src delta) :=
  (((Advances.busRead s _ _).trans (.of_write hs (State.busWrite_cycles _ _ .data _))).mapRegs _).settle 7 3 s

theorem Advances.interruptEntry (hs : stores) (s : State) (kind : EntryKind) :
    Advances stores s (s.interruptEntry kind) :=
  .of_write (n := 5 + s.regs.nativeExtra) hs (by rw [s.interruptEntry_cycles, Nat.add_assoc])

end

/-! ## Every instruction -/

/-- The instructions that store to memory or push. -/
def Storing (i : Instr) : Prop := ∃ a l b b', i ∈ storing a l b b'

/-- Every instruction completes, one case for each of the shapes above. -/
theorem exec_advances (i : Instr) (s : State) : ∃ t, exec i s = .next t ∧ Advances (Storing i) s t := by
  cases i with
  | ldaDpXInd | ldaSr | ldaDp | ldaDpIndLong | ldaAbs | ldaLong | ldaDpIndY | ldaDpInd | ldaSrIndY | ldaDpX
  | ldaDpIndLongY | ldaAbsY | ldaAbsX | ldaLongX | ldxDp | ldxAbs | ldxDpY | ldxAbsY | ldyDp | ldyAbs | ldyDpX
  | ldyAbsX | cmpDpXInd | cmpSr | cmpDp | cmpDpIndLong | cmpAbs | cmpLong | cmpDpIndY | cmpDpInd | cmpSrIndY
  | cmpDpX | cmpDpIndLongY | cmpAbsY | cmpAbsX | cmpLongX | cpxDp | cpxAbs | cpyDp | cpyAbs | bitDp | bitAbs | bitDpX
  | bitAbsX =>
    exact ⟨_, rfl, .readOperand s _ _ _ _⟩
  | adcDpXInd | adcSr | adcDp | adcDpIndLong | adcAbs | adcLong | adcDpIndY | adcDpInd | adcSrIndY | adcDpX
  | adcDpIndLongY | adcAbsY | adcAbsX | adcLongX | sbcDpXInd | sbcSr | sbcDp | sbcDpIndLong | sbcAbs | sbcLong
  | sbcDpIndY | sbcDpInd | sbcSrIndY | sbcDpX | sbcDpIndLongY | sbcAbsY | sbcAbsX | sbcLongX | andDpXInd
  | andSr | andDp | andDpIndLong | andAbs | andLong | andDpIndY | andDpInd | andSrIndY | andDpX | andDpIndLongY
  | andAbsY | andAbsX | andLongX | oraDpXInd | oraSr | oraDp | oraDpIndLong | oraAbs | oraLong | oraDpIndY
  | oraDpInd | oraSrIndY | oraDpX | oraDpIndLongY | oraAbsY | oraAbsX | oraLongX | eorDpXInd | eorSr | eorDp
  | eorDpIndLong | eorAbs | eorLong | eorDpIndY | eorDpInd | eorSrIndY | eorDpX | eorDpIndLongY | eorAbsY
  | eorAbsX | eorLongX =>
    exact ⟨_, rfl, .alu s _ _ _⟩
  | ldaImmM | ldxImmX | ldyImmX | adcImmM | sbcImmM | andImmM | oraImmM | eorImmM | cmpImmM | cpxImmX | cpyImmX
  | bitImmM =>
    exact ⟨_, rfl, .immediate s _ _ _ _⟩
  | aslAcc | lsrAcc | rolAcc | rorAcc | incAcc | decAcc | inx | iny | dex | dey | clc | sec | cli | sei | cld | sed
  | clv | nop | xce | tax | tay | txa | tya | tsx | txs | txy | tyx | tcd | tdc | tcs | tsc | xba =>
    exact ⟨_, rfl, .implied s _ _⟩
  | rep | sep | brl => exact ⟨_, rfl, ((Advances.refl s).mapRegs _).settle _ _ s⟩
  | wdm => exact ⟨_, rfl, (Advances.refl s).settle _ _ s⟩
  | wai | stp => exact ⟨_, rfl, (Advances.pins s _).settle 3 1 s⟩
  | bcc | bcs | beq | bne | bmi | bpl | bvc | bvs | bra => exact ⟨_, rfl, .branch s _ _⟩
  | jmpPcAbs => exact ⟨_, rfl, .jump 3 (.refl s)⟩
  | jmpPcInd => exact ⟨_, rfl, .jump 5 (.read16 s _ _ _)⟩
  | jmpPcIndX => exact ⟨_, rfl, .jump 6 (.read16 s _ _ _)⟩
  | jmlPcLong => exact ⟨_, rfl, .jumpLong 4 4 (.refl s)⟩
  | jmlPcIndLong => exact ⟨_, rfl, .jumpLong 6 3 (.read24 s _)⟩
  | rts => exact ⟨_, rfl, .returnShort s⟩
  | rtl => exact ⟨_, rfl, .returnLong s⟩
  | rti => exact ⟨_, rfl, (Advances.interruptReturn s _).settle _ _ s⟩
  | pla | plx | ply | plp | plb | pld => exact ⟨_, rfl, .pulling s _ _ _ _⟩
  | staDpXInd b | staSr b | staDp b | staDpIndLong b | staDpIndY b | staDpInd b | staSrIndY b | staDpX b
  | staDpIndLongY b | stxDp b | stxDpY b | styDp b | styDpX b | stzDp b | stzDpX b =>
    exact ⟨_, rfl, .store ⟨0, 0, b, 0, by simp only [storing, staForms, stxForms, styForms, stzForms, List.map_append,
      List.map_cons, List.mem_append, List.mem_cons, true_or, or_true]⟩ s _ _ _⟩
  | staAbs a | staAbsY a | staAbsX a | stxAbs a | styAbs a | stzAbs a | stzAbsX a =>
    exact ⟨_, rfl, .store ⟨a, 0, 0, 0, by simp only [storing, staForms, stxForms, styForms, stzForms, List.map_append,
      List.map_cons, List.mem_append, List.mem_cons, true_or, or_true]⟩ s _ _ _⟩
  | staLong l | staLongX l =>
    exact ⟨_, rfl, .store ⟨0, l, 0, 0, by simp only [storing, staForms, List.map_append, List.map_cons,
      List.mem_append, List.mem_cons, true_or, or_true]⟩ s _ _ _⟩
  | aslDp b | aslDpX b | lsrDp b | lsrDpX b | rolDp b | rolDpX b | rorDp b | rorDpX b | incDp b | incDpX b | decDp b
  | decDpX b | tsbDp b | trbDp b =>
    exact ⟨_, rfl, .modify ⟨0, 0, b, 0, by simp only [storing, aslForms, lsrForms, rolForms, rorForms, incForms,
      decForms, tsbForms, trbForms, List.map_append, List.map_cons, List.mem_append, List.mem_cons, true_or, or_true]⟩
      s _ _⟩
  | aslAbs a | aslAbsX a | lsrAbs a | lsrAbsX a | rolAbs a | rolAbsX a | rorAbs a | rorAbsX a | incAbs a | incAbsX a
  | decAbs a | decAbsX a | tsbAbs a | trbAbs a =>
    exact ⟨_, rfl, .modify ⟨a, 0, 0, 0, by simp only [storing, aslForms, lsrForms, rolForms, rorForms, incForms,
      decForms, tsbForms, trbForms, List.map_append, List.map_cons, List.mem_append, List.mem_cons, true_or, or_true]⟩
      s _ _⟩
  | mvn dst src | mvp dst src =>
    exact ⟨_, rfl, .blockMove ⟨0, 0, dst, src, List.mem_append_right _ (by simp)⟩ s _ _ _⟩
  | pha | phx | phy | php | phb | phd | phk =>
    exact ⟨_, rfl, .pushing ⟨0, 0, 0, 0, List.mem_append_right _ (by simp)⟩ s _ _ _ _ _⟩
  | pea v | per v => exact ⟨_, rfl, .pushing ⟨v, 0, 0, 0, List.mem_append_right _ (by simp)⟩ s _ _ _ _ _⟩
  | pei b => exact ⟨_, rfl, .pushPointer ⟨0, 0, b, 0, List.mem_append_right _ (by simp)⟩ s b⟩
  | jsrPcAbs a => exact ⟨_, rfl, .call ⟨a, 0, 0, 0, List.mem_append_right _ (by simp)⟩ s a⟩
  | jsrPcIndX a => exact ⟨_, rfl, .callIndX ⟨a, 0, 0, 0, List.mem_append_right _ (by simp)⟩ s a⟩
  | jsl l => exact ⟨_, rfl, .callLong ⟨0, l, 0, 0, List.mem_append_right _ (by simp)⟩ s l⟩
  | brk b | cop b =>
    exact ⟨_, rfl, (Advances.interruptEntry ⟨0, 0, b, 0, List.mem_append_right _ (by simp)⟩ s _).settle _ _ s⟩

theorem exec_next_advances {i : Instr} {s t : State} (h : exec i s = .next t) : Advances (Storing i) s t := by
  obtain ⟨t', h', ha⟩ := exec_advances i s
  cases h'.symm.trans h
  exact ha

/-- Settles O19: an instruction that is not of the list leaves the memory. -/
theorem memoryWriters : Obligations.MemoryWriters := fun _ _ _ h =>
  not_imp_comm.mp (exec_next_advances h).mem

end Sys2Proof.Machine
end

section
/-! SUPPORT. The cases of a step (60_exceptions.md R380), and what every one of them keeps and counts. -/

namespace Sys2Proof.Machine

/-- A step does nothing but count one cycle, the forced values of a held reset aside: the reset line is low, or the core is
stopped, or it waits without a cause to wake (70_reset_and_hazards.md R467). -/
def State.Still (s : State) : Prop :=
  s.pins.resbIn = false ∨
    (s.pins.coarse ≠ .reset ∧ (s.pins.enabled = false ∨ (s.pins.readyOut = false ∧ s.wakes = false)))

/-- What a step from `s` may end in (60_exceptions.md R380). -/
inductive StepCase (s : State) : State → Prop
  | held (h : s.pins.resbIn = false) : StepCase s s.heldInReset
  | sequence (h : ¬s.Still) (hc : s.pins.coarse = .reset) : StepCase s s.resetSequence
  | idle (h : s.Still) : StepCase s (s.internal 1)
  | nmi (h : ¬s.Still) (hn : s.pins.nmiPending = true) : StepCase s s.awake.takeNmi
  | irq (h : ¬s.Still) (hn : s.pins.nmiPending = false) (hq : s.pins.irqbIn = false) (hi : s.regs.p.i = false) :
      StepCase s s.awake.takeIrq
  | instr (h : ¬s.Still) (hn : s.pins.nmiPending = false) (hq : s.pins.irqbIn = true ∨ s.regs.p.i = true) {u : State}
      (hu : exec (s.awake.fetchInstr.instr s.regs.p.m s.regs.p.x) s.awake.fetchInstr.state = .next u) :
      StepCase s (u.recordTrace s.awake.fetchInstr s.awake)

/-- A step that fetches executes the instruction at the state after the fetch, then leaves the trace record. -/
theorem State.runInstr_next {s t : State} (h : s.runInstr = .next t) :
    ∃ u, exec (s.fetchInstr.instr s.regs.p.m s.regs.p.x) s.fetchInstr.state = .next u ∧
      t = u.recordTrace s.fetchInstr s := by
  unfold State.runInstr at h
  dsimp only at h
  split at h
  · cases h; exact ⟨_, ‹_›, rfl⟩
  · cases h
  · cases h

theorem step_cases {s t : State} (h : step s = .next t) : StepCase s t := by
  unfold step at h
  split at h
  case isTrue hr => cases h; exact .held (by simpa using hr)
  case isFalse hr =>
    split at h
    case isTrue hc => cases h; exact .sequence (by simp_all [State.Still]) hc
    case isFalse hc =>
      split at h
      case isTrue he => cases h; exact .idle (.inr ⟨hc, .inl (by simpa using he)⟩)
      case isFalse he =>
        split at h
        case isTrue hw => cases h; exact .idle (.inr ⟨hc, .inr (by simpa using hw)⟩)
        case isFalse hw =>
          have hs : ¬s.Still := by simp_all [State.Still]
          unfold State.runCase at h
          split at h
          case isTrue hn => cases h; exact .nmi hs hn
          case isFalse hn =>
            have hn : s.pins.nmiPending = false := by simpa using hn
            split at h
            case isTrue hq =>
              cases h
              simp only [Bool.and_eq_true, Bool.not_eq_true', State.awake_pins, State.awake_regs] at hq
              exact .irq hs hn hq.1 hq.2
            case isFalse hq =>
              obtain ⟨u, hu, rfl⟩ := State.runInstr_next h
              exact .instr hs hn (by simpa [or_iff_not_imp_left] using hq) hu

/-! ## The platform of a step, and its count -/

/-- What no step changes: the ROM image, the parameters, the steps of the clock. -/
structure SamePlatform (s t : State) : Prop where
  rom : t.bus.mem.rom = s.bus.mem.rom
  params : t.params = s.params
  fastStep : t.clock.fastStep = s.clock.fastStep
  slowStep : t.clock.slowStep = s.clock.slowStep

theorem Rest.samePlatform {s t : State} (h : Rest s t) : SamePlatform s t := ⟨h.rom, h.params, h.fastStep, h.slowStep⟩

theorem SamePlatform.trans {s t u : State} (h : SamePlatform s t) (h' : SamePlatform t u) : SamePlatform s u :=
  ⟨h'.rom.trans h.rom, h'.params.trans h.params, h'.fastStep.trans h.fastStep, h'.slowStep.trans h.slowStep⟩

theorem exec_samePlatform {i : Instr} {s t : State} (h : exec i s = .next t) : SamePlatform s t := by
  obtain ⟨_, -, hrest, -⟩ := exec_next h
  exact ⟨hrest.rom, hrest.params, hrest.fastStep, hrest.slowStep⟩

theorem State.fetchInstr_samePlatform (s : State) : SamePlatform s s.fetchInstr.state :=
  have h := (Rest.fetchInstr s).samePlatform
  ⟨h.rom, h.params, h.fastStep, h.slowStep⟩

/-- The reset sequence is its seven internal cycles and two reads of the vector (70_reset_and_hazards.md R433, R467). -/
theorem State.resetSequence_cycles (s : State) : s.resetSequence.clock.cyclesSpent = s.clock.cyclesSpent + 9 := by
  simp only [State.resetSequence, State.loadVector, State.pullVector, State.mapRegs_clock, State.busRead_cycles,
    State.internal_clock, Clock.charge_cyclesSpent, State.resetForce_clock]

section
variable (s : State) (kind : EntryKind) (p q : Pins) (n : Nat)

/-- An NMI or an IRQ is taken. -/
theorem State.entry_samePlatform :
    let s1 : State := { s with pins := p }
    SamePlatform s { (s1.interruptEntry kind).settle n 0 s1 with pins := q } :=
  have h := (Rest.interruptEntry { s with pins := p } kind).samePlatform
  ⟨h.rom, h.params, h.fastStep, h.slowStep⟩

/-- An entry counts the cycles of its accesses at least. -/
theorem State.entry_lt_cycles :
    let s1 : State := { s with pins := p }
    s.clock.cyclesSpent <
      ({ (s1.interruptEntry kind).settle n 0 s1 with pins := q } : State).clock.cyclesSpent := by
  simp only [State.settle, State.internal_clock, Clock.charge_cyclesSpent, State.interruptEntry_cycles]
  omega

end

theorem StepCase.samePlatform {s t : State} (h : StepCase s t) : SamePlatform s t := by
  cases h with
  | held | idle => exact ⟨rfl, rfl, rfl, rfl⟩
  | sequence =>
    have h := ((Rest.internal s.resetForce 7).trans (Rest.loadVector _ 0xFFFC)).samePlatform
    exact ⟨h.rom, h.params, h.fastStep, h.slowStep⟩
  | nmi => exact s.entry_samePlatform .nmi _ _ _
  | irq => exact s.entry_samePlatform .irq _ _ _
  | instr _ _ _ hu =>
    have h := s.awake.fetchInstr_samePlatform.trans (exec_samePlatform hu)
    exact ⟨h.rom, h.params, h.fastStep, h.slowStep⟩

theorem StepCase.lt_cycles {s t : State} (h : StepCase s t) : s.clock.cyclesSpent < t.clock.cyclesSpent := by
  cases h with
  | held | idle => exact Nat.lt_succ_self _
  | sequence => rw [State.resetSequence_cycles]; omega
  | nmi => exact s.entry_lt_cycles .nmi _ _ _
  | irq => exact s.entry_lt_cycles .irq _ _ _
  | instr _ _ _ hu =>
    have hf := s.awake.fetchInstr_cycles
    have he := (exec_next_advances hu).cycles
    rw [State.awake_clock] at hf
    rw [State.recordTrace_clock]
    omega

theorem StepCase.still_cycles {s t : State} (h : StepCase s t) (hs : s.Still) :
    t.clock.cyclesSpent = s.clock.cyclesSpent + 1 := by
  cases h with
  | held | idle => rfl
  | sequence h | nmi h | irq h | instr h => exact absurd hs h

/-- Settles O15: the cases of a step, one by one. -/
theorem stepKeepsRom : Obligations.StepKeepsRom := by
  intro s t h
  have hc := step_cases h
  obtain ⟨hrom, hparams, hfast, hslow⟩ := hc.samePlatform
  exact ⟨hrom, hparams, hfast, hslow, hc.lt_cycles, hc.still_cycles⟩

end Sys2Proof.Machine
end

section
/-! SUPPORT. Reads after writes on the flat platform (20_memory.md R83, R90, R93): every address is one byte of storage, for
reads and for writes, and no two addresses share one. -/

namespace Sys2Proof.Machine

/-! ## Bytes of storage -/

@[simp] theorem State.upd_readLoc (s : State) (r : Regs) (c : Clock) (m : Memory) (a : Addr) :
    (s.upd r c m).readLoc a = s.readLoc a := by
  simp only [State.readLoc, State.upd_resolve]

theorem State.peek_of_readLoc {s : State} {a : Addr} {l : Loc} (h : s.readLoc a = some l) :
    s.peek a = s.bus.mem.byte l := by
  unfold State.readLoc at h
  unfold State.peek
  split at h <;> simp_all

/-- A byte that is delivered to one place is a write of the core there. -/
theorem State.writeTarget_of_writeLocs {s : State} {a : Addr} {l : Loc} (h : s.writeLocs a = [l]) (m : Memory)
    (v : Byte) : m.writeTarget (s.resolve .write a) a v = m.write l v := by
  unfold State.writeLocs at h
  unfold Memory.writeTarget
  split at h <;> simp_all

theorem State.storeCells_wf {s : State} (h : s.bus.mem.wf = true) (cells : List (Addr × Byte)) :
    (s.storeCells cells).wf = true := by
  unfold State.storeCells
  generalize s.bus.mem = m at h
  induction cells generalizing m with
  | nil => exact h
  | cons c cells ih => exact ih _ (Memory.writeTarget_wf h _ _ _)

theorem State.storeCells_append_one (s : State) (cells : List (Addr × Byte)) (c : Addr × Byte) :
    s.storeCells (cells ++ [c]) = (s.storeCells cells).writeTarget (s.resolve .write c.1) c.1 c.2 := by
  simp only [State.storeCells, List.foldl_append, List.foldl_cons, List.foldl_nil]

/-! ## The flat platform -/

section
variable {s : State}

theorem State.Flat.upd (h : s.Flat) (r : Regs) (c : Clock) (m : Memory) : (s.upd r c m).Flat :=
  ⟨h.banks, h.bankMap, h.readPages, h.writePages⟩

/-- The byte of storage an address selects, in RAM, in the bank of its number and at its offset. -/
theorem State.Flat.loc (h : s.Flat) (a : Addr) :
    ∃ l : Loc, s.readLoc a = some l ∧ s.writeLocs a = [l] ∧ (∀ b, l.store ≠ .rom b) ∧
      storeBankNumber l.store = bankOf a ∧ l.offset = offsetOf a := by
  obtain ⟨st, hr, hbank, hrom⟩ := h.resolve .read a
  have hw : s.resolve .write a = s.resolve .read a := by
    simp only [State.resolve, Bus.pages, h.readPages, h.writePages]
  refine ⟨pageLoc { store := st, page := highByte (offsetOf a) } a, ?_, ?_, hrom, hbank, joinWord_parts _⟩
  · simp only [State.readLoc, hr]
  · simp only [State.writeLocs, hw, hr]

/-- A byte written is read at its address, and at no other. -/
theorem State.Flat.peek_write (h : s.Flat) {m : Memory} (hm : m.wf = true) (r r' : Regs) (c c' : Clock) (a b : Addr)
    (v : Byte) :
    (s.upd r c (m.writeTarget (s.resolve .write a) a v)).peek b = if b = a then v else (s.upd r' c' m).peek b := by
  obtain ⟨l, hr, hw, hrom, hbank, hoff⟩ := h.loc b
  rw [State.peek_of_readLoc (l := l) (by rw [State.upd_readLoc, hr]),
    State.peek_of_readLoc (l := l) (by rw [State.upd_readLoc, hr])]
  by_cases hab : b = a
  · subst hab
    rw [if_pos rfl, State.writeTarget_of_writeLocs hw]
    exact Memory.byte_write_eq hm hrom
  · obtain ⟨l', -, hw', -, hbank', hoff'⟩ := h.loc a
    have hne : l ≠ l' := by
      rintro rfl
      exact hab (by rw [← joinAddr_parts b, ← joinAddr_parts a, ← hbank, ← hoff, hbank', hoff'])
    rw [if_neg hab, State.writeTarget_of_writeLocs hw']
    exact Memory.byte_write_ne hne

/-- After a list of bytes is stored, an address reads the last of them that was stored to it, else what it read before. -/
theorem State.Flat.peek_storeCells (h : s.Flat) (hm : s.bus.mem.wf = true) (cells : List (Addr × Byte)) (a : Addr) :
    (s.upd s.regs s.clock (s.storeCells cells)).peek a =
      ((cells.reverse.find? fun c => c.1 == a).map Prod.snd).getD (s.peek a) := by
  induction cells using List.reverseRecOn with
  | nil => exact State.upd_peek s _ _ a
  | append_singleton cells c ih =>
    rw [State.storeCells_append_one, h.peek_write (State.storeCells_wf hm cells) _ s.regs _ s.clock, ih,
      List.reverse_concat, List.find?_cons]
    by_cases hc : a = c.1
    · simp [hc]
    · simp [hc, beq_false_of_ne (Ne.symm hc)]

/-- A write costs time and stores its byte. -/
theorem State.Flat.busWrite (h : s.Flat) (a : Addr) (k : AccessKind) (v : Byte) :
    ∃ c, s.busWrite a k v = s.upd s.regs c (s.bus.mem.writeTarget (s.resolve .write a) a v) :=
  State.busWrite_offIo (h.offIo .write [a]).head k v

/-- A read gives what a peek gives. -/
theorem State.Flat.busRead (h : s.Flat) (a : Addr) (k : AccessKind) : (s.busRead a k).1 = s.peek a := by
  obtain ⟨c, hr⟩ := State.busRead_offIo (h.offIo .read [a]).head k
  rw [hr]

/-- What an instruction that stores leaves to be read: all but the bus and the parameters makes no difference. -/
theorem OnlyStores.peek {t : State} {cells : List (Addr × Byte)} (h : OnlyStores s t cells) (a : Addr) :
    t.peek a = (s.upd s.regs s.clock (s.storeCells cells)).peek a := by
  refine State.peek_congr (s := s.upd s.regs s.clock (s.storeCells cells)) ?_ h.params a
  calc t.bus = ⟨t.bus.mem, t.bus.bankMap, t.bus.readPages, t.bus.writePages, t.bus.ioCount⟩ := rfl
    _ = { s.bus with mem := s.storeCells cells } := by
      rw [h.stored, h.bankMap, h.readPages, h.writePages, h.ioCount]
      rfl

end

/-- Settles O23: a write changes the one byte of storage its address selects, and a list of stores is its writes in order. -/
theorem flatMemory : Obligations.FlatMemory := by
  constructor
  · intro s a k v h hm
    obtain ⟨c, hw⟩ := h.busWrite a k v
    rw [hw]
    refine ⟨h.upd _ _ _, Memory.writeTarget_wf hm _ _ _, fun b k' => ?_⟩
    rw [(h.upd _ _ _).busRead, h.peek_write hm _ s.regs _ s.clock, State.upd_peek]
  · intro s t cells h hm hs a
    rw [hs.peek, h.peek_storeCells hm]

end Sys2Proof.Machine
end

section
/-! SUPPORT. The decoder and the encoder (30_encoding.md R110 to R118): every cell of the opcode matrix agrees with the
encoder, and every instruction is made by a cell. -/

namespace Sys2Proof

open Sys2Proof.Machine

/-! ## The opcode matrix and the encoder -/

/-- The digit as four bits. -/
def Hex.bits : Hex → BitVec 4
  | .x0 => 0x0 | .x1 => 0x1 | .x2 => 0x2 | .x3 => 0x3 | .x4 => 0x4 | .x5 => 0x5 | .x6 => 0x6 | .x7 => 0x7
  | .x8 => 0x8 | .x9 => 0x9 | .xA => 0xA | .xB => 0xB | .xC => 0xC | .xD => 0xD | .xE => 0xE | .xF => 0xF

/-- A byte is its two digits. -/
theorem Hex.bits_hexDigit (b : Byte) : (Hex.bits (hexDigit b 4) ++ Hex.bits (hexDigit b 0) : Byte) = b := by
  revert b; decide

/-- What the encoder does with the instructions a cell of the matrix makes, `op` being the cell's opcode: they are
well-formed where an immediate of theirs fits, and encoded in the format of the cell (30_encoding.md R111, R112). -/
inductive Shape.Encodes (m x : Bool) (op : Byte) : Shape → Prop
  | none {i : Instr} (wf : i.wellFormed m x = true) (enc : encode m x i = [op]) : Encodes m x op (.none i)
  | one {f : Byte → Instr} (wf : ∀ b, (f b).wellFormed m x = true) (enc : ∀ b, encode m x (f b) = encode1 op b) :
      Encodes m x op (.one f)
  | two {f : Word → Instr} (wf : ∀ w, (f w).wellFormed m x = true) (enc : ∀ w, encode m x (f w) = encode2 op w) :
      Encodes m x op (.two f)
  | three {f : Addr → Instr} (wf : ∀ a, (f a).wellFormed m x = true) (enc : ∀ a, encode m x (f a) = encode3 op a) :
      Encodes m x op (.three f)
  | immM {f : Word → Instr} (wf : ∀ w, (f w).wellFormed m x = immFits m w)
      (enc : ∀ w, encode m x (f w) = encodeImm m op w) : Encodes m x op (.immM f)
  | immX {f : Word → Instr} (wf : ∀ w, (f w).wellFormed m x = immFits x w)
      (enc : ∀ w, encode m x (f w) = encodeImm x op w) : Encodes m x op (.immX f)
  | block {f : Byte → Byte → Instr} (wf : ∀ b b', (f b b').wellFormed m x = true)
      (enc : ∀ b b', encode m x (f b b') = [op, b, b']) : Encodes m x op (.block f)

/-- The matrix and the encoder agree, cell by cell (30_encoding.md R116). -/
theorem opcodeMatrix_encodes (m x : Bool) (r c : Hex) :
    (opcodeMatrix r c).Encodes m x (Hex.bits r ++ Hex.bits c) := by
  cases r <;> cases c <;> constructor <;> intros <;> rfl

theorem opcodeShape_encodes (m x : Bool) (op : Byte) : (opcodeShape op).Encodes m x op := by
  have h := opcodeMatrix_encodes m x (hexDigit op 4) (hexDigit op 0)
  rwa [Hex.bits_hexDigit] at h

/-- The instructions a cell of the matrix makes. -/
inductive Shape.Makes : Shape → Instr → Prop
  | none (i : Instr) : Makes (.none i) i
  | one (f : Byte → Instr) (b : Byte) : Makes (.one f) (f b)
  | two (f : Word → Instr) (w : Word) : Makes (.two f) (f w)
  | three (f : Addr → Instr) (a : Addr) : Makes (.three f) (f a)
  | immM (f : Word → Instr) (w : Word) : Makes (.immM f) (f w)
  | immX (f : Word → Instr) (w : Word) : Makes (.immX f) (f w)
  | block (f : Byte → Byte → Instr) (b b' : Byte) : Makes (.block f) (f b b')

/-- Every instruction is made by a cell: that of the opcode its encoding begins with (30_encoding.md R116). -/
theorem opcodeShape_makes (i : Instr) :
    ∃ op, (∃ ops, encode true true i = op :: ops) ∧ (opcodeShape op).Makes i := by
  cases i <;> exact ⟨_, ⟨_, rfl⟩, by constructor⟩

/-! ## Operand bytes -/

/-- The instruction a cell makes of a list of operand bytes. -/
abbrev Shape.read (m x : Bool) (sh : Shape) (ops : List Byte) : Instr :=
  sh.build m x (ops.getD 0 0) (ops.getD 1 0) (ops.getD 2 0)

/-- Bytes decode where they begin with an opcode and as many operand bytes as its format has (30_encoding.md R110). -/
theorem decode_eq_ok_iff {m x : Bool} {bytes rest : List Byte} {i : Instr} :
    decode m x bytes = .ok (i, rest) ↔
      ∃ op ops, ops.length = (opcodeShape op).operandBytes m x ∧ (opcodeShape op).read m x ops = i ∧
        bytes = op :: ops ++ rest := by
  constructor
  · intro h
    cases bytes with
    | nil => cases h
    | cons op bytes =>
      simp only [decode] at h
      split at h
      · cases h
      · cases h
        refine ⟨op, bytes.take ((opcodeShape op).operandBytes m x), ?_, Shape.build_bytes m x _ bytes, ?_⟩
        · rw [List.length_take]; omega
        · rw [List.cons_append, List.take_append_drop]
  · rintro ⟨op, ops, hl, rfl, rfl⟩
    have hlt : ¬(ops ++ rest).length < (opcodeShape op).operandBytes m x := by rw [List.length_append]; omega
    rw [List.cons_append, decode, if_neg hlt, ← Shape.build_bytes, ← hl, List.take_left, List.drop_left]

/-- An immediate put together from operand bytes fits its format. -/
theorem immFits_immOperand (narrow : Bool) (b1 b2 : Byte) : immFits narrow (immOperand narrow b1 b2) = true := by
  cases narrow with
  | false => rfl
  | true => exact beq_iff_eq.mpr (highByte_zeroExt b1)

/-- An immediate put together from the operand bytes of its format is encoded by them (30_encoding.md R112, R115). -/
theorem encodeImm_immOperand {narrow : Bool} {ops : List Byte} (hl : ops.length = if narrow then 1 else 2) (op : Byte) :
    encodeImm narrow op (immOperand narrow (ops.getD 0 0) (ops.getD 1 0)) = op :: ops := by
  cases narrow with
  | false =>
    obtain ⟨b1, b2, rfl⟩ := List.length_eq_two.mp hl
    simp [encodeImm, immOperand]
  | true =>
    obtain ⟨b1, rfl⟩ := List.length_eq_one_iff.mp hl
    simp [encodeImm, immOperand]

/-- An immediate that fits its format is put together from as many operand bytes (30_encoding.md R112). -/
theorem exists_immOperand_eq {narrow : Bool} {w : Word} (h : immFits narrow w = true) :
    ∃ ops : List Byte, (ops.length = if narrow then 1 else 2) ∧
      immOperand narrow (ops.getD 0 0) (ops.getD 1 0) = w := by
  cases narrow with
  | false => exact ⟨[lowByte w, highByte w], rfl, joinWord_parts w⟩
  | true => exact ⟨[lowByte w], rfl, zeroExt_lowByte (beq_iff_eq.mp h)⟩

/-- What a cell makes of as many operand bytes as its format has is well-formed, and its encoding is the opcode and those
bytes (30_encoding.md R115). -/
theorem Shape.Encodes.read {m x : Bool} {op : Byte} {sh : Shape} (h : sh.Encodes m x op) {ops : List Byte}
    (hl : ops.length = sh.operandBytes m x) :
    (sh.read m x ops).wellFormed m x = true ∧ encode m x (sh.read m x ops) = op :: ops := by
  cases h with
  | none wf enc =>
    obtain rfl := List.eq_nil_of_length_eq_zero hl
    exact ⟨wf, enc⟩
  | one wf enc =>
    obtain ⟨b, rfl⟩ := List.length_eq_one_iff.mp hl
    exact ⟨wf b, enc b⟩
  | two wf enc =>
    obtain ⟨b1, b2, rfl⟩ := List.length_eq_two.mp hl
    exact ⟨wf _, (enc _).trans (by simp [encode2])⟩
  | three wf enc =>
    obtain ⟨b1, b2, b3, rfl⟩ := List.length_eq_three.mp hl
    exact ⟨wf _, (enc _).trans (by simp [encode3])⟩
  | immM wf enc => exact ⟨(wf _).trans (immFits_immOperand m _ _), (enc _).trans (encodeImm_immOperand hl op)⟩
  | immX wf enc => exact ⟨(wf _).trans (immFits_immOperand x _ _), (enc _).trans (encodeImm_immOperand hl op)⟩
  | block wf enc =>
    obtain ⟨b, b', rfl⟩ := List.length_eq_two.mp hl
    exact ⟨wf b b', enc b b'⟩

/-- A well-formed instruction of a cell is what the cell makes of as many operand bytes as its format has. -/
theorem Shape.Encodes.exists_read_eq {m x : Bool} {op : Byte} {sh : Shape} (h : sh.Encodes m x op) {i : Instr}
    (hm : sh.Makes i) (hwf : i.wellFormed m x = true) :
    ∃ ops, ops.length = sh.operandBytes m x ∧ sh.read m x ops = i := by
  cases hm with
  | none => exact ⟨[], rfl, rfl⟩
  | one f b => exact ⟨[b], rfl, rfl⟩
  | two f w => exact ⟨[lowByte w, highByte w], rfl, congrArg f (joinWord_parts w)⟩
  | three f a =>
    exact ⟨[lowByte (offsetOf a), highByte (offsetOf a), bankOf a], rfl, congrArg f (by simp)⟩
  | block f b b' => exact ⟨[b, b'], rfl, rfl⟩
  | immM f w =>
    cases h with
    | immM wf enc =>
      obtain ⟨ops, hl, he⟩ := exists_immOperand_eq ((wf w).symm.trans hwf)
      exact ⟨ops, hl, congrArg f he⟩
  | immX f w =>
    cases h with
    | immX wf enc =>
      obtain ⟨ops, hl, he⟩ := exists_immOperand_eq ((wf w).symm.trans hwf)
      exact ⟨ops, hl, congrArg f he⟩

/-! ## The round trip -/

/-- Settles O1: a well-formed instruction is what the cell of its opcode makes of some operand bytes; these, after the opcode,
are its encoding, and the decoder reads it from them. -/
theorem decodeEncode : Obligations.DecodeEncode := by
  intro m x i rest hwf
  obtain ⟨op, -, hm⟩ := opcodeShape_makes i
  have he := opcodeShape_encodes m x op
  obtain ⟨ops, hl, rfl⟩ := he.exists_read_eq hm hwf
  exact decode_eq_ok_iff.mpr ⟨op, ops, hl, rfl, by rw [(he.read hl).2]⟩

/-- Settles O2: the bytes that decode are an opcode, its operand bytes and the rest; no format has more than three operand
bytes. -/
theorem encodeDecode : Obligations.EncodeDecode := by
  constructor
  · intro m x bytes rest i h
    obtain ⟨op, ops, hl, rfl, rfl⟩ := decode_eq_ok_iff.mp h
    obtain ⟨hwf, henc⟩ := (opcodeShape_encodes m x op).read hl
    exact ⟨hwf, by rw [henc]⟩
  · intro m x op b1 b2 b3 rest
    have hle := Shape.operandBytes_le m x (opcodeShape op)
    generalize hn : (opcodeShape op).operandBytes m x = n at hle
    refine ⟨_, [b1, b2, b3].drop n, decode_eq_ok_iff.mpr ⟨op, [b1, b2, b3].take n, ?_, rfl, ?_⟩⟩
    · simp [hn, hle]
    · rw [List.cons_append, ← List.append_assoc, List.take_append_drop]
      rfl

/-- Settles O3: each word is read by its cell. -/
theorem decodeWords : Obligations.DecodeWords := by
  unfold Obligations.DecodeWords
  and_intros <;> rfl

end Sys2Proof
end

section
/-! SUPPORT. A step that fetches, away from the I/O gate (30_encoding.md R113, R114, 60_exceptions.md R380). -/

namespace Sys2Proof.Machine

/-- A step that reaches case 7 of 60_exceptions.md R380 runs an instruction, `ready_out` being high. -/
theorem State.Fetching.step_eq {s : State} (h : s.Fetching) : step s = s.awake.runInstr := by
  obtain ⟨⟨hreset, hcoarse, henabled, hready⟩, hnmi, hirq⟩ := h
  have hwaits : (!s.pins.readyOut && !s.wakes) = false := by simpa [or_iff_not_imp_left] using hready
  have hirq' : (!s.pins.irqbIn && !s.regs.p.i) = false := by simpa [or_iff_not_imp_left] using hirq
  simp [step, hreset, hcoarse, henabled, hwaits, State.runCase, hnmi, hirq']

/-- A peek does not look at the pins. -/
@[simp] theorem State.awake_peek (s : State) (a : Addr) : s.awake.peek a = s.peek a := State.peek_congr rfl rfl a

@[simp] theorem State.awake_peekBytes (s : State) (bank : Byte) (off : Word) (n : Nat) :
    s.awake.peekBytes bank off n = s.peekBytes bank off n := by
  induction n generalizing off with
  | zero => rfl
  | succ n ih => simp only [State.peekBytes, ih, State.awake_peek]

/-- Running an instruction whose meaning completes leaves its trace record. -/
theorem State.runInstr_of_exec {s t : State}
    (h : exec (s.fetchInstr.instr s.regs.p.m s.regs.p.x) s.fetchInstr.state = .next t) :
    s.runInstr = .next (t.recordTrace s.fetchInstr s) := by
  simp only [State.runInstr, h]

/-- Settles O4: the fetch of the awake core gives the opcode, the operands and the state after them, and every meaning
completes. -/
theorem stepRunsDecoded : Obligations.StepRunsDecoded := by
  intro s i rest hf hd hio
  rw [← State.awake_peekBytes] at hd
  obtain ⟨hinstr, hlen⟩ := State.fetchInstr_decode (s := s.awake) hd hio
  have hbytes : s.awake.fetchInstr.operands.length + 1 = 4 - rest.length := by omega
  have hoperands : s.awake.fetchInstr.operands.length = 3 - rest.length := by omega
  obtain ⟨hop, hops, hstate⟩ := State.fetchInstr_offIo (s := s.awake) (hbytes ▸ hio)
  have hcycles := s.awake.fetchInstr_cycles
  rw [hbytes] at hstate hcycles
  obtain ⟨t, -, ht, -⟩ := exec_confined i s.awake.fetchInstr.state
  refine ⟨s.awake.fetchInstr.state.clock, t, hcycles, hstate ▸ ht, ?_⟩
  rw [hf.step_eq, State.runInstr_of_exec (hinstr.symm ▸ ht), State.recordTrace, hop, hops, hoperands]
  simp

end Sys2Proof.Machine
end

section
/-! SUPPORT. The addressing modes (40_addressing.md): the offsets and sums they form, as numbers, and the accesses through them
away from the I/O gate. -/

namespace Sys2Proof.Machine

/-! ## Offsets and addresses as numbers -/

/-- A sum of numbers, cut to a width, is the sum of the words. -/
theorem ofNat_toNat_add {w : Nat} (v : BitVec w) (n : Nat) : BitVec.ofNat w (v.toNat + n) = v + BitVec.ofNat w n := by
  rw [BitVec.ofNat_add, BitVec.ofNat_toNat, BitVec.setWidth_eq]

theorem toNat_lowByte (w : Word) : (lowByte w).toNat = w.toNat % 256 := by
  simp [lowByte, BitVec.extractLsb'_toNat]

theorem toNat_zeroExt (b : Byte) : (zeroExt b).toNat = b.toNat :=
  BitVec.toNat_setWidth_of_le (by decide)

/-- An index carries into the bank, and past bank 0xFF the sum wraps (40_addressing.md R142). -/
theorem toNat_add_indexAddr (base : Addr) (index : Word) :
    (base + indexAddr index).toNat = (base.toNat + index.toNat) % 2 ^ 24 := by
  rw [BitVec.toNat_add, indexAddr, BitVec.toNat_setWidth_of_le (by decide)]

/-- The stack-relative offset wraps in bank 0 (40_addressing.md R172). -/
theorem Regs.srAddr_eq (r : Regs) (sr : Byte) : r.srAddr sr = BitVec.ofNat 16 (r.s.toNat + sr.toNat) := by
  rw [ofNat_toNat_add, BitVec.ofNat_toNat]
  rfl

theorem Regs.pageWrap_iff (r : Regs) : r.pageWrap = true ↔ r.e = true ∧ lowByte r.d = 0x00 := by
  simp only [Regs.pageWrap, Bool.and_eq_true, beq_iff_eq]

theorem nextOffset_bank (off : Word) : nextOffset false off = BitVec.ofNat 16 (off.toNat + 1) :=
  (ofNat_toNat_add off 1).symm

theorem nextOffset_page (off : Word) :
    nextOffset true off = joinWord (highByte off) (BitVec.ofNat 8 ((lowByte off).toNat + 1)) := by
  rw [ofNat_toNat_add]
  rfl

theorem Regs.dpAddr_page {r : Regs} (h : r.pageWrap = true) (dp : Byte) (idx : Word) :
    r.dpAddr dp idx = joinWord (highByte r.d) (dp + lowByte idx) := if_pos h

theorem Regs.dpAddr_bank {r : Regs} (h : ¬r.pageWrap = true) (dp : Byte) (idx : Word) :
    r.dpAddr dp idx = r.d + zeroExt dp + idx := if_neg h

/-- Settles O26: in the page only the low byte is a sum; else the offset is the sum of three words. -/
theorem directPageAddress : Obligations.DirectPageAddress := by
  intro r dp idx
  split
  next h =>
    rw [Regs.dpAddr_page (r.pageWrap_iff.mpr h), highByte_joinWord, lowByte_joinWord, BitVec.toNat_add, toNat_lowByte]
    exact ⟨rfl, Nat.add_mod_mod ..⟩
  next h =>
    rw [Regs.dpAddr_bank (mt r.pageWrap_iff.mp h), BitVec.toNat_add, BitVec.toNat_add, toNat_zeroExt, Nat.mod_add_mod]

/-! ## Pointer reads (40_addressing.md R144, R145, R148) -/

theorem State.word_bank (s : State) (bank : Byte) (off : Word) :
    s.word bank false off =
      joinWord (s.peek (joinAddr bank (BitVec.ofNat 16 (off.toNat + 1)))) (s.peek (joinAddr bank off)) := by
  rw [State.word, nextOffset_bank]

theorem State.word_page (s : State) (bank : Byte) (off : Word) :
    s.word bank true off =
      joinWord (s.peek (joinAddr bank (joinWord (highByte off) (BitVec.ofNat 8 ((lowByte off).toNat + 1)))))
        (s.peek (joinAddr bank off)) := by
  rw [State.word, nextOffset_page]

theorem State.long_eq (s : State) (off : Word) :
    s.long off =
      joinAddr (s.peek (joinAddr 0x00 (BitVec.ofNat 16 (off.toNat + 2))))
        (joinWord (s.peek (joinAddr 0x00 (BitVec.ofNat 16 (off.toNat + 1)))) (s.peek (joinAddr 0x00 off))) := by
  rw [State.long, State.word_bank, ofNat_toNat_add off 2]
  rfl

/-- Where the second byte of a direct-page pointer lies (40_addressing.md R148). -/
theorem State.word_pageWrap (s : State) (bank : Byte) (off : Word) :
    s.word bank s.regs.pageWrap off =
      if s.regs.e = true ∧ lowByte s.regs.d = 0x00 then s.word bank true off else s.word bank false off := by
  split
  next h => rw [s.regs.pageWrap_iff.mpr h]
  next h => rw [Bool.eq_false_iff.mpr (mt s.regs.pageWrap_iff.mp h)]

/-- What a read that only takes time gives and leaves alone. -/
theorem OnlyRegs.of_read {α : Type} {s : State} {v : α} {x : α × State} (h : ∃ c, x = (v, s.upd s.regs c s.bus.mem)) :
    x.1 = v ∧ x.2.regs = s.regs ∧ OnlyRegs s x.2 := by
  obtain ⟨c, rfl⟩ := h
  exact ⟨rfl, rfl, OnlyRegs.upd s s.regs c⟩

/-- Settles O27: the three reads give `State.word` and `State.long`, whose bytes lie where the statement says. -/
theorem pointerReads : Obligations.PointerReads := by
  intro s off
  refine ⟨fun h => ?_, fun h => ?_, fun h => ?_⟩
  · rw [← State.word_bank]
    exact OnlyRegs.of_read (State.read16_offIo h)
  · rw [← State.long_eq]
    exact OnlyRegs.of_read (State.read24_offIo h)
  · rw [← State.word_page, ← State.word_bank, ← State.word_pageWrap]
    exact OnlyRegs.of_read (State.read16_offIo h)

/-! ## Effective addresses -/

/-- Settles O28: a mode without a pointer forms its address from registers and operand alone. -/
theorem effectiveAddresses : Obligations.EffectiveAddresses := fun s _ _ b =>
  ⟨⟨rfl, rfl⟩, ⟨rfl, rfl⟩, ⟨rfl, rfl⟩,
    ⟨toNat_add_indexAddr _ _, rfl⟩, ⟨toNat_add_indexAddr _ _, rfl⟩, ⟨toNat_add_indexAddr _ _, rfl⟩,
    ⟨rfl, rfl⟩, ⟨rfl, rfl⟩, ⟨congrArg (joinAddr 0x00) (s.regs.srAddr_eq b), rfl⟩⟩

theorem State.read16_value {s : State} {bank : Byte} {same : Bool} {off : Word}
    (h : s.OffIo .read (wordAddrs bank same off)) : (s.read16 bank same off).1 = s.word bank same off :=
  (OnlyRegs.of_read (State.read16_offIo h)).1

theorem State.read24_value {s : State} {off : Word} (h : s.OffIo .read (bytesAddrs 0x00 off 3)) :
    (s.read24Bank0 off).1 = s.long off :=
  (OnlyRegs.of_read (State.read24_offIo h)).1

/-- Settles O29: the pointer's value, then, for the modes indexed by Y, the sum with Y. -/
theorem effectiveIndirect : Obligations.EffectiveIndirect := by
  intro s b ea off page dbr
  refine ⟨fun h => ⟨?_, rfl⟩, fun h => ⟨?_, rfl⟩, fun h => ⟨?_, rfl⟩, fun h => ⟨?_, rfl⟩, fun h => ⟨?_, rfl⟩,
    fun h => ⟨?_, rfl⟩⟩
  · exact congrArg (joinAddr dbr) (State.read16_value h)
  · exact State.read24_value h
  · exact congrArg (joinAddr dbr) (State.read16_value h)
  · rw [← State.read16_value h]
    exact toNat_add_indexAddr _ _
  · rw [← State.read24_value h]
    exact toNat_add_indexAddr _ _
  · rw [← Regs.srAddr_eq, ← State.read16_value h]
    exact toNat_add_indexAddr _ _

/-! ## Data (40_addressing.md R146, R147) -/

/-- What a write that only takes time and stores bytes leaves alone. -/
theorem OnlyStores.of_write {s t : State} {cells : List (Addr × Byte)}
    (h : ∃ c, t = s.upd s.regs c (s.storeCells cells)) : t.regs = s.regs ∧ OnlyStores s t cells := by
  obtain ⟨c, rfl⟩ := h
  exact ⟨rfl, OnlyStores.upd s s.regs c cells⟩

/-- Settles O30: the statement's next address is `Ea.next`, so its addresses are `State.dataAddrs`, its datum
`State.datum` and its cells `State.cellsUp`. -/
theorem dataAccess : Obligations.DataAccess := by
  intro s e v next
  have hnext : next = e.next s.params.data16CrossesBank := by
    obtain ⟨a, cls, cross⟩ := e
    simp only [next, Ea.next, ofNat_toNat_add]
    cases cls with
    | bank0 => rfl
    | linear => cases s.params.data16CrossesBank <;> rfl
  rw [hnext]
  exact ⟨fun h => OnlyRegs.of_read (State.readData_offIo (w := .w8) h),
    fun h => OnlyRegs.of_read (State.readData_offIo (w := .w16) h),
    fun h => OnlyStores.of_write (State.writeData_offIo (w := .w8) h v),
    fun h => OnlyStores.of_write (State.writeData_offIo (w := .w16) h v)⟩

end Sys2Proof.Machine
end

section
/-! SUPPORT. Loads and stores (41_load_store.md): what each form's meaning is, and the model's loads as the results the
statements name. -/

namespace Sys2Proof.Machine

/-! ## Every form is its shape at the mode it is paired with: `exec` agrees with the shape entry by entry of the list -/

section
variable (s : State) (a : Word) (l : Addr) (b : Byte)

theorem exec_ldaForms : ∀ p ∈ ldaForms a l b, exec p.1 s = .next (s.lda p.2) := List.map_inj_left.mp rfl

theorem exec_ldxForms : ∀ p ∈ ldxForms a b, exec p.1 s = .next (s.ldx p.2) := List.map_inj_left.mp rfl

theorem exec_ldyForms : ∀ p ∈ ldyForms a b, exec p.1 s = .next (s.ldy p.2) := List.map_inj_left.mp rfl

theorem exec_staForms : ∀ p ∈ staForms a l b, exec p.1 s = .next (s.sta p.2) := List.map_inj_left.mp rfl

theorem exec_stxForms : ∀ p ∈ stxForms a b, exec p.1 s = .next (s.stx p.2) := List.map_inj_left.mp rfl

theorem exec_styForms : ∀ p ∈ styForms a b, exec p.1 s = .next (s.sty p.2) := List.map_inj_left.mp rfl

theorem exec_stzForms : ∀ p ∈ stzForms a b, exec p.1 s = .next (s.stz p.2) := List.map_inj_left.mp rfl

end

/-! ## N and Z at a width, and the registers after a load (10_state.md R21, R22, R33) -/

theorem Status.setNZ_byte (p : Status) (v : Byte) : p.setNZ v = p.nz8 v := by
  rw [Status.setNZ, BitVec.msb_eq_getLsbD_last]
  rfl

theorem Status.setNZ_word (p : Status) (v : Word) : p.setNZ v = p.nz16 v := by
  rw [Status.setNZ, BitVec.msb_eq_getLsbD_last]
  rfl

theorem Status.setNZAt_w8 (p : Status) (v : Word) : p.setNZAt .w8 v = p.nz8 (lowByte v) := p.setNZ_byte (lowByte v)

theorem Status.setNZAt_w16 (p : Status) (v : Word) : p.setNZAt .w16 v = p.nz16 v := p.setNZ_word v

theorem Regs.loadA_eq_resultA (r : Regs) (v : Word) : r.loadA r.p.widthM v = r.resultA v := by
  unfold Regs.loadA Regs.resultA Status.widthM
  split
  · rw [Status.setNZAt_w8]; rfl
  · rw [Status.setNZAt_w16]; rfl

theorem Regs.loadX_eq_resultX (r : Regs) (v : Word) : r.loadX v = r.resultX v := by
  unfold Regs.loadX Regs.resultX Status.widthX
  split
  · rw [Status.setNZAt_w8]; rfl
  · rw [Status.setNZAt_w16]; rfl

theorem Regs.loadY_eq_resultY (r : Regs) (v : Word) : r.loadY v = r.resultY v := by
  unfold Regs.loadY Regs.resultY Status.widthX
  split
  · rw [Status.setNZAt_w8]; rfl
  · rw [Status.setNZAt_w16]; rfl

/-! ## The shapes, as claims -/

/-- A form that reads its operand, off the I/O pages, leaves the registers its function makes of the datum. -/
theorem Becomes.readOperand {i : Instr} {s : State} {md : Mode} {w : Width} {n : Nat} {f : Word → Regs → Regs}
    (hi : exec i s = .next (s.readOperand md w n f)) (h : s.OffIo .read (s.operandAddrs w md)) :
    Becomes i s (f (s.datum w (s.effective md).1) s.regs) :=
  .of_upd (State.readOperand_offIo h n f) hi

/-- An immediate form leaves the registers its function makes of the operand. -/
theorem Becomes.immediate {i : Instr} {s : State} {imm : Word} {w : Width} {n : Nat} {f : Word → Regs → Regs}
    (hi : exec i s = .next (s.immediate imm w n f)) : Becomes i s (f imm s.regs) :=
  .of_upd (s.immediate_upd imm w n f) hi

/-- A form that stores, its pointer and its datum off the I/O pages, keeps the registers and stores the bytes of the value. -/
theorem Stores.store {i : Instr} {s : State} {md : Mode} {w : Width} {v : Word}
    (hi : exec i s = .next (s.store md w v)) (hp : s.OffIo .read (s.pointerAddrs md))
    (hd : s.OffIo .write (s.dataAddrs w (s.effective md).1)) :
    Stores i s s.regs (s.cellsUp w (s.effective md).1 v) :=
  .of_upd (State.store_offIo hp hd v) hi

/-! ## The statements -/

/-- Settles O31: a memory form reads its operand, an immediate form has it, and the load is the result the statement names. -/
theorem loads : Obligations.Loads := by
  refine ⟨fun s a l b p hp h => ?_, fun s imm => ?_, fun s a b => ⟨fun p hp h => ?_, fun p hp h => ?_⟩,
    fun s imm => ⟨?_, ?_⟩⟩
  · rw [← Regs.loadA_eq_resultA]
    exact .readOperand (exec_ldaForms s a l b p hp) h
  · rw [← Regs.loadA_eq_resultA]
    exact .immediate (i := .ldaImmM imm) rfl
  · rw [← Regs.loadX_eq_resultX]
    exact .readOperand (exec_ldxForms s a b p hp) h
  · rw [← Regs.loadY_eq_resultY]
    exact .readOperand (exec_ldyForms s a b p hp) h
  · rw [← Regs.loadX_eq_resultX]
    exact .immediate (i := .ldxImmX imm) rfl
  · rw [← Regs.loadY_eq_resultY]
    exact .immediate (i := .ldyImmX imm) rfl

/-- Settles O32: every form is `State.store` of its register, or of zero, at its width. -/
theorem storeForms : Obligations.StoreForms := fun s a l b =>
  ⟨fun p hp => .store (exec_staForms s a l b p hp), fun p hp => .store (exec_stxForms s a b p hp),
    fun p hp => .store (exec_styForms s a b p hp), fun p hp => .store (exec_stzForms s a b p hp)⟩

end Sys2Proof.Machine
end

section
/-! SUPPORT. Arithmetic, logic, compare and bit test (42_alu.md): what each form's meaning is, and the registers an operation on A
leaves, as the results the statements name. -/

namespace Sys2Proof.Machine

/-! ## Every form is its shape at the mode it is paired with -/

section
variable (s : State) (a : Word) (l : Addr) (b : Byte)

theorem exec_adcForms : ∀ p ∈ adcForms a l b, exec p.1 s = .next (s.adc p.2) := List.map_inj_left.mp rfl

theorem exec_sbcForms : ∀ p ∈ sbcForms a l b, exec p.1 s = .next (s.sbc p.2) := List.map_inj_left.mp rfl

theorem exec_andForms : ∀ p ∈ andForms a l b, exec p.1 s = .next (s.alu aluAnd 0 p.2) := List.map_inj_left.mp rfl

theorem exec_oraForms : ∀ p ∈ oraForms a l b, exec p.1 s = .next (s.alu aluOra 0 p.2) := List.map_inj_left.mp rfl

theorem exec_eorForms : ∀ p ∈ eorForms a l b, exec p.1 s = .next (s.alu aluEor 0 p.2) := List.map_inj_left.mp rfl

theorem exec_cmpForms : ∀ p ∈ cmpForms a l b, exec p.1 s = .next (s.cmp p.2) := List.map_inj_left.mp rfl

theorem exec_cpxForms : ∀ p ∈ cpxForms a b, exec p.1 s = .next (s.cpx p.2) := List.map_inj_left.mp rfl

theorem exec_cpyForms : ∀ p ∈ cpyForms a b, exec p.1 s = .next (s.cpy p.2) := List.map_inj_left.mp rfl

theorem exec_bitForms : ∀ p ∈ bitForms a b, exec p.1 s = .next (s.bit p.2) := List.map_inj_left.mp rfl

end

/-! ## Operations on A (42_alu.md R210) -/

theorem Regs.aluA_eq (r : Regs) (op : AluOp) (v : Word) :
    r.aluA op v =
      if r.p.m then
        { r with
          a := r.withLowA (op 8 (lowByte r.a) (lowByte v) r.p).1
          p := (op 8 (lowByte r.a) (lowByte v) r.p).2 }
      else { r with a := (op 16 r.a v r.p).1, p := (op 16 r.a v r.p).2 } := by
  unfold Regs.aluA Status.widthM
  split
  · simp only [runOp, Width.insert, lowByte_zeroExt, Regs.withLowA]
  · rfl

/-- An operation whose result is a sum, with C and V from that sum, leaves the sum's registers. -/
theorem Regs.aluA_sum (r : Regs) {op : AluOp} {f : (w : Nat) → BitVec w → BitVec w → Status → Sum w}
    (h : ∀ w a m p, op w a m p = ((f w a m p).result, p.setSum (f w a m p))) (v : Word) :
    r.aluA op v =
      if r.p.m then r.sum8 (f 8 (lowByte r.a) (lowByte v) r.p) else r.sum16 (f 16 r.a v r.p) := by
  simp only [Regs.aluA_eq, h, Status.setSum, Status.setNZ_byte, Status.setNZ_word, Regs.sum8, Regs.sum16]

/-- An operation that combines bit by bit, with N and Z, leaves the registers of a result in A. -/
theorem Regs.aluA_logic (r : Regs) {op : AluOp} {g : (w : Nat) → BitVec w → BitVec w → BitVec w}
    (h : ∀ w a m p, op w a m p = (g w a m, p.setNZ (g w a m)))
    (hlow : ∀ a v : Word, lowByte (g 16 a v) = g 8 (lowByte a) (lowByte v)) (v : Word) :
    r.aluA op v = r.resultA (g 16 r.a v) := by
  simp only [Regs.aluA_eq, h, hlow, Status.setNZ_byte, Status.setNZ_word, Regs.resultA]

theorem Regs.aluA_adc (r : Regs) (dv : DecimalV) (v : Word) :
    r.aluA (aluAdc dv) v =
      if r.p.m then
        r.sum8 (if r.p.d then addDecimal dv (lowByte r.a) (lowByte v) r.p.c else addBinary (lowByte r.a) (lowByte v) r.p.c)
      else r.sum16 (if r.p.d then addDecimal dv r.a v r.p.c else addBinary r.a v r.p.c) :=
  r.aluA_sum (f := fun _ a m p => if p.d then addDecimal dv a m p.c else addBinary a m p.c) (fun _ _ _ _ => rfl) v

theorem Regs.aluA_sbc (r : Regs) (dv : DecimalV) (v : Word) :
    r.aluA (aluSbc dv) v =
      if r.p.m then
        r.sum8 (if r.p.d then subDecimal dv (lowByte r.a) (lowByte v) r.p.c else subBinary (lowByte r.a) (lowByte v) r.p.c)
      else r.sum16 (if r.p.d then subDecimal dv r.a v r.p.c else subBinary r.a v r.p.c) :=
  r.aluA_sum (f := fun _ a m p => if p.d then subDecimal dv a m p.c else subBinary a m p.c) (fun _ _ _ _ => rfl) v

theorem Regs.aluA_and (r : Regs) (v : Word) : r.aluA aluAnd v = r.resultA (r.a &&& v) :=
  r.aluA_logic (g := fun _ a m => a &&& m) (fun _ _ _ _ => rfl) (fun _ _ => BitVec.extractLsb'_and) v

theorem Regs.aluA_ora (r : Regs) (v : Word) : r.aluA aluOra v = r.resultA (r.a ||| v) :=
  r.aluA_logic (g := fun _ a m => a ||| m) (fun _ _ _ _ => rfl) (fun _ _ => BitVec.extractLsb'_or) v

theorem Regs.aluA_eor (r : Regs) (v : Word) : r.aluA aluEor v = r.resultA (r.a ^^^ v) :=
  r.aluA_logic (g := fun _ a m => a ^^^ m) (fun _ _ _ _ => rfl) (fun _ _ => BitVec.extractLsb'_xor) v

/-! ## Compare and bit test (42_alu.md R221 to R224) -/

/-- A compare at the width a flag chooses. -/
theorem Status.compareAt_flagWidth (p : Status) (narrow : Bool) (a v : Word) :
    p.compareAt (if narrow then .w8 else .w16) a v =
      if narrow then p.cmp8 (lowByte a) (lowByte v) else p.cmp16 a v := by
  cases narrow with
  | true => exact Status.setNZ_byte _ _
  | false => exact Status.setNZ_word _ _

theorem Regs.cmpA_eq (r : Regs) (v : Word) :
    r.cmpA v = { r with p := if r.p.m then r.p.cmp8 (lowByte r.a) (lowByte v) else r.p.cmp16 r.a v } := by
  rw [← Status.compareAt_flagWidth]
  rfl

theorem Regs.cmpX_eq (r : Regs) (v : Word) :
    r.cmpX v = { r with p := if r.p.x then r.p.cmp8 (lowByte r.x) (lowByte v) else r.p.cmp16 r.x v } := by
  rw [← Status.compareAt_flagWidth]
  rfl

theorem Regs.cmpY_eq (r : Regs) (v : Word) :
    r.cmpY v = { r with p := if r.p.x then r.p.cmp8 (lowByte r.y) (lowByte v) else r.p.cmp16 r.y v } := by
  rw [← Status.compareAt_flagWidth]
  rfl

theorem getLsbD_lowByte (v : Word) {i : Nat} (h : i < 8) : (lowByte v).getLsbD i = v.getLsbD i := by
  simp [lowByte, h]

/-- Z of a bit test: the AND with A is zero at width `wM`. -/
def Regs.bitZero (r : Regs) (v : Word) : Bool :=
  if r.p.m then decide (lowByte r.a &&& lowByte v = 0) else decide (r.a &&& v = 0)

theorem Regs.bitImm_eq (r : Regs) (v : Word) : r.bitImm v = { r with p := { r.p with z := r.bitZero v } } := by
  unfold Regs.bitImm Regs.bitZero Status.widthM
  cases r.p.m <;> rfl

theorem Regs.bitMem_eq (r : Regs) (v : Word) :
    r.bitMem v =
      { r with
        p := { r.p with
          z := r.bitZero v
          n := v.getLsbD (if r.p.m then 7 else 15)
          v := v.getLsbD ((if r.p.m then 7 else 15) - 1) } } := by
  unfold Regs.bitMem Regs.bitZero Status.widthM
  cases r.p.m with
  | true =>
    simp only [if_true, Status.bitMemory, getLsbD_lowByte v (show 8 - 1 < 8 by decide),
      getLsbD_lowByte v (show 8 - 2 < 8 by decide)]
    rfl
  | false => rfl

/-! ## The shapes, as claims -/

/-- A form that reads its operand for an operation on A, off the I/O pages, leaves what the operation makes of the datum. -/
theorem Becomes.alu {i : Instr} {s : State} {md : Mode} {op : AluOp} {n : Nat} (hi : exec i s = .next (s.alu op n md))
    (h : s.OffIo .read (s.operandAddrs s.regs.p.widthM md)) :
    Becomes i s (s.regs.aluA op (s.datum s.regs.p.widthM (s.effective md).1)) :=
  .readOperand hi h

/-- An immediate form of an operation on A leaves what the operation makes of the operand. -/
theorem Becomes.aluImm {i : Instr} {s : State} {imm : Word} {op : AluOp} {n : Nat}
    (hi : exec i s = .next (s.aluImm op n imm)) : Becomes i s (s.regs.aluA op imm) :=
  .immediate hi

/-! ## The statements -/

/-- Settles O33: every form is the operation `aluAdc` on A, which leaves the registers of its sum. -/
theorem addWithCarry : Obligations.AddWithCarry := by
  intro s v p r
  have hr : s.regs.aluA (aluAdc s.params.decimalV) v = r := s.regs.aluA_adc s.params.decimalV v
  refine ⟨hr ▸ .aluImm (i := .adcImmM v) rfl, fun a l b q hq hio hv => ?_⟩
  rw [← hr, hv]
  exact .alu (exec_adcForms s a l b q hq) hio

/-- Settles O34: every form is the operation `aluSbc` on A, which leaves the registers of its difference. -/
theorem subtractWithBorrow : Obligations.SubtractWithBorrow := by
  intro s v p r
  have hr : s.regs.aluA (aluSbc s.params.decimalV) v = r := s.regs.aluA_sbc s.params.decimalV v
  refine ⟨hr ▸ .aluImm (i := .sbcImmM v) rfl, fun a l b q hq hio hv => ?_⟩
  rw [← hr, hv]
  exact .alu (exec_sbcForms s a l b q hq) hio

/-- Settles O38: every form is its operation on A, which leaves the result the statement names. -/
theorem logicForms : Obligations.LogicForms := by
  intro s
  simp only [← Regs.aluA_and, ← Regs.aluA_ora, ← Regs.aluA_eor]
  exact ⟨fun v => .aluImm (i := .andImmM v) rfl, fun v => .aluImm (i := .oraImmM v) rfl,
    fun v => .aluImm (i := .eorImmM v) rfl, fun a l b =>
      ⟨fun p hp h => .alu (exec_andForms s a l b p hp) h, fun p hp h => .alu (exec_oraForms s a l b p hp) h,
        fun p hp h => .alu (exec_eorForms s a l b p hp) h⟩⟩

/-- Settles O39: every form compares its register with its operand. -/
theorem compareForms : Obligations.CompareForms := by
  intro s
  simp only [← Regs.cmpA_eq, ← Regs.cmpX_eq, ← Regs.cmpY_eq]
  exact ⟨fun v => .immediate (i := .cmpImmM v) rfl, fun v => .immediate (i := .cpxImmX v) rfl,
    fun v => .immediate (i := .cpyImmX v) rfl, fun a l b =>
      ⟨fun p hp h => .readOperand (exec_cmpForms s a l b p hp) h,
        fun p hp h => .readOperand (exec_cpxForms s a b p hp) h,
        fun p hp h => .readOperand (exec_cpyForms s a b p hp) h⟩⟩

/-- Settles O40: the immediate form is `Regs.bitImm`, every other `Regs.bitMem`. -/
theorem bitTest : Obligations.BitTest := by
  refine fun s => ⟨fun v => ?_, fun a b p hp h => ?_⟩
  · exact s.regs.bitImm_eq v ▸ .immediate (i := .bitImmM v) rfl
  · have hb : Becomes p.1 s (s.regs.bitMem (s.datum s.regs.p.widthM (s.effective p.2).1)) :=
      .readOperand (exec_bitForms s a b p hp) h
    rw [Regs.bitMem_eq] at hb
    exact hb

end Sys2Proof.Machine
end

section
/-! SUPPORT. Binary addition and subtraction at any width (42_alu.md R212, R216). -/

namespace Sys2Proof.Machine

section
variable {w : Nat} (a m : BitVec w) (c : Bool)

theorem toNat_addBinary : (addBinary a m c).result.toNat = (a.toNat + m.toNat + c.toNat) % 2 ^ w :=
  BitVec.toNat_ofNat _ _

theorem addBinary_carry_iff : (addBinary a m c).carry = true ↔ 2 ^ w ≤ a.toNat + m.toNat + c.toNat :=
  decide_eq_true_iff

theorem addOverflow_eq_getLsbD (r : BitVec w) : addOverflow a m r = ((a ^^^ r) &&& (m ^^^ r)).getLsbD (w - 1) :=
  BitVec.msb_eq_getLsbD_last _

theorem subOverflow_eq_getLsbD (r : BitVec w) : subOverflow a m r = ((a ^^^ m) &&& (a ^^^ r)).getLsbD (w - 1) :=
  BitVec.msb_eq_getLsbD_last _

/-- The sign bit weighs half of `2 ^ w`. -/
theorem two_pow_eq_two_mul (hw : 0 < w) : 2 ^ w = 2 * 2 ^ (w - 1) := by
  rw [← Nat.pow_succ', Nat.succ_eq_add_one, Nat.sub_add_cancel hw]

/-- V of an addition says that the sign of the result is neither operand's. -/
theorem addOverflow_iff (r : BitVec w) :
    addOverflow a m r = true ↔
      ¬(2 ^ (w - 1) ≤ a.toNat ↔ 2 ^ (w - 1) ≤ r.toNat) ∧ ¬(2 ^ (w - 1) ≤ m.toNat ↔ 2 ^ (w - 1) ≤ r.toNat) := by
  rw [addOverflow, BitVec.msb_and, BitVec.msb_xor, BitVec.msb_xor]
  simp only [BitVec.msb_eq_decide, Bool.and_eq_true, bne_iff_ne, ne_eq, decide_eq_decide]

theorem toInt_of_half {H : Nat} (hH : 2 ^ w = 2 * H) (v : BitVec w) :
    v.toInt = if H ≤ v.toNat then (v.toNat : Int) - 2 * H else v.toNat := by
  rw [BitVec.toInt_eq_toNat_cond, hH]
  split <;> split <;> omega

/-- The unsigned sum is the result, or exceeds it by `2 ^ w`. -/
theorem toNat_addBinary_cases :
    (addBinary a m c).result.toNat = a.toNat + m.toNat + c.toNat ∨
      (addBinary a m c).result.toNat + 2 ^ w = a.toNat + m.toNat + c.toNat := by
  have ha := a.isLt
  have hm := m.isLt
  have hc := c.toNat_le
  rw [toNat_addBinary]
  rcases Nat.lt_or_ge (a.toNat + m.toNat + c.toNat) (2 ^ w) with h | h
  · exact .inl (Nat.mod_eq_of_lt h)
  · rw [Nat.mod_eq_sub_mod h, Nat.mod_eq_of_lt (by omega)]
    omega

/-- V of an addition is the signed sum out of range: the signs of the operands and of the result say which of the two cases of
the unsigned sum are in range. -/
theorem addBinary_overflow_iff (hw : 0 < w) :
    (addBinary a m c).overflow = true ↔
      a.toInt + m.toInt + (c.toNat : Int) < -(2 ^ (w - 1) : Int) ∨
        (2 ^ (w - 1) : Int) ≤ a.toInt + m.toInt + (c.toNat : Int) := by
  have hH := two_pow_eq_two_mul hw
  have hcast : (2 ^ (w - 1) : Int) = ((2 ^ (w - 1) : Nat) : Int) := by rw [Nat.cast_pow, Nat.cast_ofNat]
  have hsum := toNat_addBinary_cases a m c
  have ha := a.isLt
  have hm := m.isLt
  have hr := (addBinary a m c).result.isLt
  have hc := c.toNat_le
  refine (addOverflow_iff a m (addBinary a m c).result).trans ?_
  rw [hcast, toInt_of_half hH a, toInt_of_half hH m]
  split <;> split <;> omega

/-- Subtraction adds the one's complement (42_alu.md R216). -/
theorem subBinary_eq_addBinary_not (hw : 0 < w) : subBinary a m c = addBinary a (~~~m) c := by
  have hv : ∀ r, subOverflow a m r = addOverflow a (~~~m) r := by
    intro r
    simp only [subOverflow, addOverflow, BitVec.msb_and, BitVec.msb_xor, BitVec.msb_not, hw, decide_true, Bool.true_and]
    cases a.msb <;> cases m.msb <;> cases r.msb <;> rfl
  simp only [subBinary, addBinary, BitVec.toNat_not, hv]

/-- The complement with the carry added is the subtrahend and the borrow taken away, and `2 ^ w` added. -/
theorem add_compl_eq_sub_add :
    ((a.toNat + (2 ^ w - 1 - m.toNat) + c.toNat : Nat) : Int) =
      a.toNat - m.toNat - (1 - (c.toNat : Int)) + ((2 ^ w : Nat) : Int) := by
  have hm := m.isLt
  omega

theorem subBinary_toInt :
    (subBinary a m c).result.toInt = (a.toInt - m.toInt - (1 - (c.toNat : Int))).bmod (2 ^ w) := by
  calc (subBinary a m c).result.toInt
      = ((a.toNat + (2 ^ w - 1 - m.toNat) + c.toNat : Nat) : Int).bmod (2 ^ w) := by
        rw [subBinary, BitVec.toInt_ofNat']
    _ = ((a.toNat : Int) - m.toNat - (1 - (c.toNat : Int))).bmod (2 ^ w) := by
        rw [add_compl_eq_sub_add, Int.add_bmod_right]
    _ = (a.toInt - m.toInt - (1 - (c.toNat : Int))).bmod (2 ^ w) := by
        rw [BitVec.toInt_eq_toNat_bmod, BitVec.toInt_eq_toNat_bmod, Int.sub_sub, Int.sub_sub, Int.bmod_sub_bmod,
          ← Int.sub_sub, ← Int.sub_sub, sub_right_comm, sub_right_comm _ (Int.bmod _ _), Int.sub_bmod_bmod]

theorem subBinary_carry_iff :
    (subBinary a m c).carry = true ↔ 2 ^ w ≤ a.toNat + (2 ^ w - 1 - m.toNat) + c.toNat := decide_eq_true_iff

end

/-- Settles O35: the sum and its carry by definition, V by `addBinary_overflow_iff`. -/
theorem binaryAddition : Obligations.BinaryAddition := fun _ a m c hw =>
  ⟨toNat_addBinary a m c, addBinary_carry_iff a m c, addOverflow_eq_getLsbD a m _, addBinary_overflow_iff a m c hw⟩

/-- Settles O36: the difference is the sum with the complement, and its carry says that nothing was borrowed. -/
theorem binarySubtraction : Obligations.BinarySubtraction := by
  intro w a m c hw
  have hborrow : 2 ^ w ≤ a.toNat + (2 ^ w - 1 - m.toNat) + c.toNat ↔ m.toNat + (1 - c.toNat) ≤ a.toNat := by
    have hc := c.toNat_le
    have hs := add_compl_eq_sub_add a m c
    omega
  exact ⟨subBinary_eq_addBinary_not a m c hw, BitVec.toNat_ofNat _ _, subBinary_toInt a m c, subBinary_carry_iff a m c,
    (subBinary_carry_iff a m c).trans hborrow, subOverflow_eq_getLsbD a m _⟩

end Sys2Proof.Machine
end

section
/-! SUPPORT. Decimal addition and subtraction (42_alu.md R213, R214, R217): both loops are one loop over the digits, run by the rule
of one digit. -/

namespace Sys2Proof.Machine

/-! ## The digits of a value -/

theorem digit_zero (v : Nat) : digit v 0 = v % 16 := by
  rw [digit, pow_zero, Nat.div_one]

theorem digit_succ (v i : Nat) : digit v (i + 1) = digit (v / 16) i := by
  rw [digit, digit, Nat.pow_succ', Nat.div_div_eq_div_mul]

theorem digit_zero_cons {d : Nat} (hd : d < 16) (v : Nat) : digit (d + 16 * v) 0 = d := by
  rw [digit_zero]
  omega

theorem digit_succ_cons {d : Nat} (hd : d < 16) (v i : Nat) : digit (d + 16 * v) (i + 1) = digit v i := by
  rw [digit_succ, show (d + 16 * v) / 16 = v by omega]

theorem bcdValue_cons {d : Nat} (hd : d < 16) (n v : Nat) : bcdValue (n + 1) (d + 16 * v) = d + 10 * bcdValue n v := by
  rw [bcdValue, show (d + 16 * v) % 16 = d by omega, show (d + 16 * v) / 16 = v by omega]

theorem bcdValid_cons {d : Nat} (hd : d ≤ 9) {n v : Nat} (hv : bcdValid n v) : bcdValid (n + 1) (d + 16 * v) := by
  rw [bcdValid, show (d + 16 * v) % 16 = d by omega, show (d + 16 * v) / 16 = v by omega]
  exact ⟨hd, hv⟩

theorem bcdValue_lt {n v : Nat} (h : bcdValid n v) : bcdValue n v < 10 ^ n := by
  induction n generalizing v with
  | zero => exact Nat.one_pos
  | succ n ih =>
    obtain ⟨hd, hv⟩ := h
    have hlt := ih hv
    rw [bcdValue, Nat.pow_succ]
    omega

/-! ## The loop -/

/-- What one digit does: its sum from the digits of the operands and the carry in, that sum adjusted, and the carry out. -/
structure DigitRule where
  sum : Nat → Nat → Nat → Nat
  adjust : Nat → Nat
  carry : Nat → Nat

/-- A digit of `AddDecimal` (42_alu.md R213). -/
def addRule : DigitRule where
  sum x y k := x + y + k
  adjust s := if 9 < s then s + 6 else s
  carry s := if 15 < (if 9 < s then s + 6 else s) then 1 else 0

/-- A digit of `SubDecimal` (42_alu.md R217). -/
def subRule : DigitRule where
  sum x y k := x + (15 - y) + k
  adjust s := if 15 < s then s else s + 10
  carry s := if 15 < s then 1 else 0

/-- The loop over `n` digits, the least significant first. -/
def DigitRule.loop (R : DigitRule) : (n : Nat) → (a m k : Nat) → Digits
  | 0, _, _, k => { adjusted := 0, topUnadjusted := 0, carry := k }
  | n + 1, a, m, k =>
    let s := R.sum (a % 16) (m % 16) k
    let rest := R.loop n (a / 16) (m / 16) (R.carry s)
    { adjusted := R.adjust s % 16 + 16 * rest.adjusted
      topUnadjusted := (if n = 0 then s else R.adjust s) % 16 + 16 * rest.topUnadjusted
      carry := rest.carry }

/-- The carry into digit `i`. -/
def DigitRule.carryIn (R : DigitRule) (a m k : Nat) : Nat → Nat
  | 0 => k
  | i + 1 => R.carry (R.sum (digit a i) (digit m i) (R.carryIn a m k i))

/-- The sum of digit `i`, before its adjustment. -/
def DigitRule.sumAt (R : DigitRule) (a m k i : Nat) : Nat := R.sum (digit a i) (digit m i) (R.carryIn a m k i)

theorem addDigits_eq_loop (n a m k : Nat) : addDigits n a m k = addRule.loop n a m k := by
  induction n generalizing a m k with
  | zero => rfl
  | succ n ih =>
    simp only [addDigits, DigitRule.loop, ih, addRule]
    cases n <;> rfl

theorem subDigits_eq_loop (n a m k : Nat) : subDigits n a m k = subRule.loop n a m k := by
  induction n generalizing a m k with
  | zero => rfl
  | succ n ih =>
    have htop (s : Nat) :
        (if 15 < s then s else if n = 0 then s else s + 10) = if n = 0 then s else if 15 < s then s else s + 10 := by
      split <;> split <;> rfl
    simp only [subDigits, DigitRule.loop, ih, subRule, htop]

theorem addCarry_eq_carryIn (a m k i : Nat) : addCarry a m k i = addRule.carryIn a m k i := by
  induction i with
  | zero => rfl
  | succ i ih => rw [addCarry, ih]; rfl

theorem subCarry_eq_carryIn (a m k i : Nat) : subCarry a m k i = subRule.carryIn a m k i := by
  induction i with
  | zero => rfl
  | succ i ih => rw [subCarry, ih]; rfl

theorem addSum_eq_sumAt (a m k i : Nat) : addSum a m k i = addRule.sumAt a m k i := by
  rw [addSum, addCarry_eq_carryIn]
  rfl

theorem subSum_eq_sumAt (a m k i : Nat) : subSum a m k i = subRule.sumAt a m k i := by
  rw [subSum, subCarry_eq_carryIn]
  rfl

section
variable (R : DigitRule)

/-- Past the lowest digit, the carries are those of the operands without it. -/
theorem DigitRule.carryIn_succ (a m k i : Nat) :
    R.carryIn a m k (i + 1) = R.carryIn (a / 16) (m / 16) (R.carry (R.sum (a % 16) (m % 16) k)) i := by
  induction i with
  | zero => simp only [DigitRule.carryIn, digit_zero]
  | succ i ih => rw [DigitRule.carryIn, ih, digit_succ, digit_succ]; rfl

theorem DigitRule.sumAt_zero (a m k : Nat) : R.sumAt a m k 0 = R.sum (a % 16) (m % 16) k := by
  rw [DigitRule.sumAt, digit_zero, digit_zero]
  rfl

theorem DigitRule.sumAt_succ (a m k i : Nat) :
    R.sumAt a m k (i + 1) = R.sumAt (a / 16) (m / 16) (R.carry (R.sum (a % 16) (m % 16) k)) i := by
  rw [DigitRule.sumAt, DigitRule.carryIn_succ, digit_succ, digit_succ]
  rfl

theorem DigitRule.loop_carry (n a m k : Nat) : (R.loop n a m k).carry = R.carryIn a m k n := by
  induction n generalizing a m k with
  | zero => rfl
  | succ n ih => rw [DigitRule.carryIn_succ, ← ih]; rfl

theorem DigitRule.digit_adjusted {n i : Nat} (h : i < n) (a m k : Nat) :
    digit (R.loop n a m k).adjusted i = R.adjust (R.sumAt a m k i) % 16 := by
  induction n generalizing a m k i with
  | zero => exact absurd h (Nat.not_lt_zero i)
  | succ n ih =>
    rw [DigitRule.loop]
    cases i with
    | zero => rw [digit_zero_cons (Nat.mod_lt _ (by decide)), DigitRule.sumAt_zero]
    | succ i => rw [digit_succ_cons (Nat.mod_lt _ (by decide)), ih (Nat.lt_of_succ_lt_succ h), DigitRule.sumAt_succ]

/-- The result with its top digit not adjusted agrees with the adjusted one below that digit. -/
theorem DigitRule.digit_topUnadjusted {n i : Nat} (h : i < n) (a m k : Nat) :
    digit (R.loop n a m k).topUnadjusted i =
      if i + 1 = n then R.sumAt a m k i % 16 else R.adjust (R.sumAt a m k i) % 16 := by
  induction n generalizing a m k i with
  | zero => exact absurd h (Nat.not_lt_zero i)
  | succ n ih =>
    rw [DigitRule.loop]
    cases i with
    | zero =>
      rw [digit_zero_cons (Nat.mod_lt _ (by decide)), DigitRule.sumAt_zero, apply_ite (· % 16)]
      exact if_congr (by omega) rfl rfl
    | succ i =>
      rw [digit_succ_cons (Nat.mod_lt _ (by decide)), ih (Nat.lt_of_succ_lt_succ h), DigitRule.sumAt_succ]
      exact if_congr (by omega) rfl rfl

/-- Both results of the loop fit in `n` digits. -/
theorem DigitRule.loop_lt (n a m k : Nat) :
    (R.loop n a m k).adjusted < 2 ^ (4 * n) ∧ (R.loop n a m k).topUnadjusted < 2 ^ (4 * n) := by
  induction n generalizing a m k with
  | zero => exact ⟨Nat.one_pos, Nat.one_pos⟩
  | succ n ih =>
    obtain ⟨hadj, htop⟩ := ih (a / 16) (m / 16) (R.carry (R.sum (a % 16) (m % 16) k))
    rw [DigitRule.loop, show 2 ^ (4 * (n + 1)) = 16 * 2 ^ (4 * n) by rw [Nat.mul_succ, Nat.pow_add']]
    constructor <;> dsimp only <;> omega

theorem DigitRule.toNat_adjusted (n a m k : Nat) :
    (BitVec.ofNat (4 * n) (R.loop n a m k).adjusted).toNat = (R.loop n a m k).adjusted :=
  (BitVec.toNat_ofNat _ _).trans (Nat.mod_eq_of_lt (R.loop_lt n a m k).1)

theorem DigitRule.toNat_topUnadjusted (n a m k : Nat) :
    (BitVec.ofNat (4 * n) (R.loop n a m k).topUnadjusted).toNat = (R.loop n a m k).topUnadjusted :=
  (BitVec.toNat_ofNat _ _).trans (Nat.mod_eq_of_lt (R.loop_lt n a m k).2)

/-- The value the loop gives for V is the one the statement describes (42_alu.md R214). -/
theorem DigitRule.forOverflow_forV (dv : DecimalV) (n a m k : Nat) :
    ForOverflow n dv (R.sumAt a m k (n - 1)) (BitVec.ofNat (4 * n) (R.loop n a m k).adjusted)
      (BitVec.ofNat (4 * n) ((R.loop n a m k).forV dv)) := by
  cases dv with
  | final => rfl
  | preHighAdjust =>
    intro i hi
    rw [Digits.forV, DigitRule.toNat_topUnadjusted, DigitRule.toNat_adjusted, R.digit_topUnadjusted hi,
      R.digit_adjusted hi]
    split
    next h => rw [← h, Nat.add_sub_cancel]
    next => rfl

end

/-! ## Valid digits -/

/-- On valid digits a rule adds `t` of the second digit to the first: its result is a valid digit and a carry. -/
structure DigitRule.Decimal (R : DigitRule) (t : Nat → Nat) : Prop where
  valid : ∀ {x y k : Nat}, x ≤ 9 → y ≤ 9 → k ≤ 1 → R.adjust (R.sum x y k) % 16 ≤ 9
  carry_le : ∀ {x y k : Nat}, R.carry (R.sum x y k) ≤ 1
  value : ∀ {x y k : Nat}, x ≤ 9 → y ≤ 9 → k ≤ 1 →
    R.adjust (R.sum x y k) % 16 + 10 * R.carry (R.sum x y k) = x + t y + k

theorem addRule_decimal : addRule.Decimal fun y => y where
  valid hx hy hk := by simp only [addRule]; split <;> omega
  carry_le {x y k} := by simp only [addRule]; split <;> split <;> omega
  value hx hy hk := by simp only [addRule]; split <;> split <;> omega

theorem subRule_decimal : subRule.Decimal fun y => 9 - y where
  valid hx hy hk := by simp only [subRule]; split <;> omega
  carry_le {x y k} := by simp only [subRule]; split <;> omega
  value hx hy hk := by simp only [subRule]; split <;> omega

/-- On valid operands the loop adds to the first the value `V` that `t` gives the second, digit by digit; its result is valid and
its carry what the `n` digits do not hold. -/
theorem DigitRule.Decimal.loop {R : DigitRule} {t : Nat → Nat} (hR : R.Decimal t) {V : Nat → Nat → Nat}
    (hV0 : ∀ m, V 0 m = 0) (hV : ∀ n m, bcdValid (n + 1) m → V (n + 1) m = t (m % 16) + 10 * V n (m / 16))
    {n a m k : Nat} (ha : bcdValid n a) (hm : bcdValid n m) (hk : k ≤ 1) :
    bcdValid n (R.loop n a m k).adjusted ∧ (R.loop n a m k).carry ≤ 1 ∧
      bcdValue n (R.loop n a m k).adjusted + 10 ^ n * (R.loop n a m k).carry = bcdValue n a + V n m + k := by
  induction n generalizing a m k with
  | zero => exact ⟨trivial, hk, by simp [DigitRule.loop, bcdValue, hV0]⟩
  | succ n ih =>
    obtain ⟨hx, ha'⟩ := ha
    have hVm := hV n m hm
    obtain ⟨hy, hm'⟩ := hm
    obtain ⟨hvalid, hcarry, hvalue⟩ := ih ha' hm' (hR.carry_le (x := a % 16) (y := m % 16) (k := k))
    have hdigit := hR.value hx hy hk
    rw [DigitRule.loop]
    refine ⟨bcdValid_cons (hR.valid hx hy hk) hvalid, hcarry, ?_⟩
    dsimp only
    rw [bcdValue_cons (Nat.mod_lt _ (by decide)), hVm, bcdValue, Nat.pow_succ']
    linarith

/-- The nines' complement of the `n` low digits. -/
def bcdNines (n m : Nat) : Nat := 10 ^ n - 1 - bcdValue n m

theorem bcdNines_succ (n m : Nat) (h : bcdValid (n + 1) m) :
    bcdNines (n + 1) m = 9 - m % 16 + 10 * bcdNines n (m / 16) := by
  obtain ⟨hd, hm⟩ := h
  have hlt := bcdValue_lt hm
  rw [bcdNines, bcdNines, bcdValue, Nat.pow_succ]
  omega

/-- A value below `p` and a carry that together make `t` are `t` modulo `p` and whether `t` reaches `p`. -/
theorem eq_mod_and_carry {r c p t : Nat} (hr : r < p) (hc : c ≤ 1) (h : r + p * c = t) : r = t % p ∧ (c = 1 ↔ p ≤ t) := by
  subst h
  refine ⟨by rw [Nat.add_mul_mod_self_left, Nat.mod_eq_of_lt hr], ?_⟩
  interval_cases c <;> omega

/-! ## The operations -/

section
variable {n : Nat} (dv : DecimalV) (a m : BitVec (4 * n)) (c : Bool)

theorem addDecimal_eq :
    addDecimal dv a m c =
      { result := BitVec.ofNat _ (addRule.loop n a.toNat m.toNat c.toNat).adjusted
        carry := (addRule.loop n a.toNat m.toNat c.toNat).carry == 1
        overflow := addOverflow a m (BitVec.ofNat _ ((addRule.loop n a.toNat m.toNat c.toNat).forV dv)) } := by
  rw [addDecimal, Nat.mul_div_cancel_left n (by decide : 0 < 4), addDigits_eq_loop]

theorem subDecimal_eq :
    subDecimal dv a m c =
      { result := BitVec.ofNat _ (subRule.loop n a.toNat m.toNat c.toNat).adjusted
        carry := (subRule.loop n a.toNat m.toNat c.toNat).carry == 1
        overflow := subOverflow a m (BitVec.ofNat _ ((subRule.loop n a.toNat m.toNat c.toNat).forV dv)) } := by
  rw [subDecimal, Nat.mul_div_cancel_left n (by decide : 0 < 4), subDigits_eq_loop]

/-- `AddDecimal` for every operand: its digits, its carry and V (42_alu.md R213, R214). -/
theorem addDecimal_digits :
    (∀ i, i < n → digit (addDecimal dv a m c).result.toNat i =
      (if 9 < addSum a.toNat m.toNat c.toNat i then addSum a.toNat m.toNat c.toNat i + 6
        else addSum a.toNat m.toNat c.toNat i) % 16) ∧
    ((addDecimal dv a m c).carry = true ↔ addCarry a.toNat m.toNat c.toNat n = 1) ∧
    ∃ r, ForOverflow n dv (addSum a.toNat m.toNat c.toNat (n - 1)) (addDecimal dv a m c).result r ∧
      (addDecimal dv a m c).overflow = ((a ^^^ r) &&& (m ^^^ r)).getLsbD (4 * n - 1) := by
  rw [addDecimal_eq, addCarry_eq_carryIn, ← DigitRule.loop_carry]
  simp only [DigitRule.toNat_adjusted, addSum_eq_sumAt]
  exact ⟨fun i hi => addRule.digit_adjusted hi _ _ _, beq_iff_eq, _, addRule.forOverflow_forV dv n _ _ _,
    addOverflow_eq_getLsbD _ _ _⟩

/-- `SubDecimal` for every operand: its digits, its carry and V (42_alu.md R217, R214). -/
theorem subDecimal_digits :
    (∀ i, i < n → (digit (subDecimal dv a m c).result.toNat i : Int) =
      (if 15 < subSum a.toNat m.toNat c.toNat i then (subSum a.toNat m.toNat c.toNat i : Int)
        else (subSum a.toNat m.toNat c.toNat i : Int) - 6) % 16) ∧
    ((subDecimal dv a m c).carry = true ↔ subCarry a.toNat m.toNat c.toNat n = 1) ∧
    ∃ r, ForOverflow n dv (subSum a.toNat m.toNat c.toNat (n - 1)) (subDecimal dv a m c).result r ∧
      (subDecimal dv a m c).overflow = ((a ^^^ m) &&& (a ^^^ r)).getLsbD (4 * n - 1) := by
  rw [subDecimal_eq, subCarry_eq_carryIn, ← DigitRule.loop_carry]
  simp only [DigitRule.toNat_adjusted, subSum_eq_sumAt]
  refine ⟨fun i hi => ?_, beq_iff_eq, _, subRule.forOverflow_forV dv n _ _ _, subOverflow_eq_getLsbD _ _ _⟩
  rw [subRule.digit_adjusted hi]
  simp only [subRule]
  split <;> omega

/-- On valid digits `AddDecimal` is decimal addition (42_alu.md R213). -/
theorem addDecimal_valid (ha : bcdValid n a.toNat) (hm : bcdValid n m.toNat) :
    bcdValid n (addDecimal dv a m c).result.toNat ∧
    bcdValue n (addDecimal dv a m c).result.toNat =
      (bcdValue n a.toNat + bcdValue n m.toNat + c.toNat) % 10 ^ n ∧
    ((addDecimal dv a m c).carry = true ↔ 10 ^ n ≤ bcdValue n a.toNat + bcdValue n m.toNat + c.toNat) := by
  obtain ⟨hvalid, hcarry, hvalue⟩ :=
    addRule_decimal.loop (V := bcdValue) (fun _ => rfl) (fun _ _ _ => rfl) ha hm c.toNat_le
  simp only [addDecimal_eq, DigitRule.toNat_adjusted, beq_iff_eq]
  exact ⟨hvalid, eq_mod_and_carry (bcdValue_lt hvalid) hcarry hvalue⟩

/-- On valid digits `SubDecimal` is decimal subtraction: it adds the nines' complement (42_alu.md R217). -/
theorem subDecimal_valid (ha : bcdValid n a.toNat) (hm : bcdValid n m.toNat) :
    bcdValid n (subDecimal dv a m c).result.toNat ∧
    bcdValue n (subDecimal dv a m c).result.toNat =
      (bcdValue n a.toNat + 10 ^ n - bcdValue n m.toNat - (1 - c.toNat)) % 10 ^ n ∧
    ((subDecimal dv a m c).carry = true ↔ bcdValue n m.toNat + (1 - c.toNat) ≤ bcdValue n a.toNat) := by
  obtain ⟨hvalid, hcarry, hvalue⟩ :=
    subRule_decimal.loop (V := bcdNines) (fun _ => rfl) bcdNines_succ ha hm c.toNat_le
  have hlt := bcdValue_lt hm
  have hc := c.toNat_le
  have htotal : bcdValue n a.toNat + bcdNines n m.toNat + c.toNat =
      bcdValue n a.toNat + 10 ^ n - bcdValue n m.toNat - (1 - c.toNat) := by
    rw [bcdNines]
    omega
  obtain ⟨hmod, hreach⟩ := eq_mod_and_carry (bcdValue_lt hvalid) hcarry (hvalue.trans htotal)
  simp only [subDecimal_eq, DigitRule.toNat_adjusted, beq_iff_eq]
  exact ⟨hvalid, hmod, hreach.trans (by omega)⟩

end

/-- Settles O37: the digits of both loops, and on valid digits their decimal values. -/
theorem decimalArithmetic : Obligations.DecimalArithmetic := by
  intro n dv a m c _
  refine ⟨addDecimal_digits dv a m c, subDecimal_digits dv a m c, fun ha hm => ?_⟩
  obtain ⟨haddValid, haddValue, haddCarry⟩ := addDecimal_valid dv a m c ha hm
  exact ⟨haddValid, haddValue, haddCarry, subDecimal_valid dv a m c ha hm⟩

end Sys2Proof.Machine
end

section
/-! SUPPORT. Shifts, rotates, increments, decrements, test-and-set and test-and-reset (43_rmw.md): what each form's meaning is, and
what the eight operations compute at any width. -/

namespace Sys2Proof.Machine

/-! ## Every form is its shape at the mode it is paired with -/

section
variable (s : State) (a : Word) (b : Byte)

theorem exec_aslForms : ∀ p ∈ aslForms a b, exec p.1 s = .next (s.modify p.2 rmwAsl) := List.map_inj_left.mp rfl

theorem exec_lsrForms : ∀ p ∈ lsrForms a b, exec p.1 s = .next (s.modify p.2 rmwLsr) := List.map_inj_left.mp rfl

theorem exec_rolForms : ∀ p ∈ rolForms a b, exec p.1 s = .next (s.modify p.2 rmwRol) := List.map_inj_left.mp rfl

theorem exec_rorForms : ∀ p ∈ rorForms a b, exec p.1 s = .next (s.modify p.2 rmwRor) := List.map_inj_left.mp rfl

theorem exec_incForms : ∀ p ∈ incForms a b, exec p.1 s = .next (s.modify p.2 rmwInc) := List.map_inj_left.mp rfl

theorem exec_decForms : ∀ p ∈ decForms a b, exec p.1 s = .next (s.modify p.2 rmwDec) := List.map_inj_left.mp rfl

theorem exec_tsbForms : ∀ p ∈ tsbForms a b, exec p.1 s = .next (s.modify p.2 rmwTsb) := List.map_inj_left.mp rfl

theorem exec_trbForms : ∀ p ∈ trbForms a b, exec p.1 s = .next (s.modify p.2 rmwTrb) := List.map_inj_left.mp rfl

end

/-! ## The memory forms (43_rmw.md R240) -/

/-- A form that modifies its datum, every address off the I/O pages, stores the bytes of the result, the high byte first, and
leaves P as the operation gives it. -/
theorem Stores.modify {i : Instr} {s : State} {md : Mode} {op : RmwOp} (hi : exec i s = .next (s.modify md op))
    (hr : s.OffIo .read (s.operandAddrs s.regs.p.widthM md))
    (hw : s.OffIo .write (s.dataAddrs s.regs.p.widthM (s.effective md).1)) :
    let w := s.regs.p.widthM
    let e := (s.effective md).1
    let r := runOp op w s.regs.a (s.datum w e) s.regs.p
    Stores i s { s.regs with p := r.2 } (s.cellsDown w e r.1) :=
  .of_upd (State.modify_offIo hr hw op) hi

/-! ## The register forms (43_rmw.md R240, R249 to R252) -/

/-- An accumulator form leaves what its operation makes of A. -/
theorem Becomes.modifyAcc {i : Instr} {s : State} {op : RmwOp} (hi : exec i s = .next (s.modifyAcc op)) :
    Becomes i s (s.regs.aluA op s.regs.a) :=
  .of_upd (s.implied_upd 2 _) hi

/-- INX and DEX leave the moved X as a result at width `wX`. -/
theorem Becomes.stepX {i : Instr} {s : State} {delta : Word} (hi : exec i s = .next (s.stepX delta)) :
    Becomes i s (s.regs.resultX (s.regs.x + delta)) :=
  s.regs.loadX_eq_resultX _ ▸ .of_upd (s.implied_upd 2 _) hi

/-- INY and DEY leave the moved Y as a result at width `wX`. -/
theorem Becomes.stepY {i : Instr} {s : State} {delta : Word} (hi : exec i s = .next (s.stepY delta)) :
    Becomes i s (s.regs.resultY (s.regs.y + delta)) :=
  s.regs.loadY_eq_resultY _ ▸ .of_upd (s.implied_upd 2 _) hi

/-! ## The results as numbers (43_rmw.md R241 to R246) -/

section
variable {w : Nat} (a v : BitVec w) (p : Status)

/-- Values without a common bit combine as they add. -/
theorem toNat_or_of_and_eq_zero {x y : BitVec w} (h : x &&& y = 0#w) : (x ||| y).toNat = x.toNat + y.toNat := by
  rw [← BitVec.add_eq_or_of_and_eq_zero x y h, BitVec.toNat_add_of_and_eq_zero h]

theorem toNat_shiftLeft_one : (v <<< 1).toNat = v.toNat * 2 % 2 ^ w := by
  rw [BitVec.toNat_shiftLeft, Nat.shiftLeft_eq, Nat.pow_one]

theorem toNat_ushiftRight_one : (v >>> 1).toNat = v.toNat / 2 := by
  rw [BitVec.toNat_ushiftRight, Nat.shiftRight_eq_div_pow, Nat.pow_one]

/-- The carry as a value of width `w`: bit 0. -/
theorem getLsbD_setWidth_ofBool (c : Bool) (i : Nat) :
    ((BitVec.ofBool c).setWidth w).getLsbD i = (decide (i < w) && (decide (i = 0) && c)) := by
  rw [BitVec.getLsbD_setWidth, BitVec.getLsbD_ofBool]

theorem toNat_setWidth_ofBool (hw : 0 < w) (c : Bool) : ((BitVec.ofBool c).setWidth w).toNat = c.toNat := by
  have hc := c.toNat_le
  have h2 := two_pow_eq_two_mul hw
  have := Nat.two_pow_pos (w - 1)
  rw [BitVec.toNat_setWidth, BitVec.toNat_ofBool, Nat.mod_eq_of_lt (by omega)]

/-- ROL: the shift leaves bit 0 free for the old carry. -/
theorem toNat_rmwRol (hw : 0 < w) : (rmwRol w a v p).1.toNat = v.toNat * 2 % 2 ^ w + p.c.toNat := by
  have hdisj : v <<< 1 &&& (BitVec.ofBool p.c).setWidth w = 0#w := by
    apply BitVec.eq_of_getLsbD_eq
    intro i hi
    rw [BitVec.getLsbD_and, BitVec.getLsbD_shiftLeft, getLsbD_setWidth_ofBool]
    rcases Nat.eq_zero_or_pos i with rfl | h
    · simp
    · simp [Nat.ne_of_gt h]
  rw [rmwRol, toNat_or_of_and_eq_zero hdisj, toNat_shiftLeft_one, toNat_setWidth_ofBool hw]

/-- ROR: the shift leaves the top bit free for the old carry. -/
theorem toNat_rmwRor (hw : 0 < w) : (rmwRor w a v p).1.toNat = v.toNat / 2 + p.c.toNat * 2 ^ (w - 1) := by
  have htop : ((BitVec.ofBool p.c).setWidth w <<< (w - 1)).toNat = p.c.toNat * 2 ^ (w - 1) := by
    have h2 := two_pow_eq_two_mul hw
    have hlt : p.c.toNat * 2 ^ (w - 1) < 2 ^ w := by
      calc p.c.toNat * 2 ^ (w - 1) ≤ 1 * 2 ^ (w - 1) := Nat.mul_le_mul_right _ p.c.toNat_le
        _ < 2 ^ w := by have := Nat.two_pow_pos (w - 1); omega
    rw [BitVec.toNat_shiftLeft, toNat_setWidth_ofBool hw, Nat.shiftLeft_eq, Nat.mod_eq_of_lt hlt]
  have hdisj : v >>> 1 &&& (BitVec.ofBool p.c).setWidth w <<< (w - 1) = 0#w := by
    apply BitVec.eq_of_getLsbD_eq
    intro i hi
    rw [BitVec.getLsbD_and, BitVec.getLsbD_ushiftRight, BitVec.getLsbD_shiftLeft]
    rcases Nat.lt_or_ge i (w - 1) with h | h
    · simp [h]
    · simp [BitVec.getLsbD_of_ge v (1 + i) (by omega)]
  rw [rmwRor, toNat_or_of_and_eq_zero hdisj, toNat_ushiftRight_one, htop]

theorem toNat_rmwInc : (rmwInc w a v p).1.toNat = (v.toNat + 1) % 2 ^ w := by
  rw [rmwInc, BitVec.toNat_add, BitVec.toNat_ofNat, Nat.add_mod_mod]

/-- DEC adds `2 ^ w - 1`, which is -1 at width `w`. -/
theorem toNat_rmwDec (hw : 0 < w) : (rmwDec w a v p).1.toNat = (v.toNat + (2 ^ w - 1)) % 2 ^ w := by
  rw [rmwDec, BitVec.toNat_sub, BitVec.toNat_ofNat, Nat.mod_eq_of_lt (Nat.one_lt_two_pow hw.ne'), Nat.add_comm]

end

/-! ## The statements -/

/-- Settles O41: every form is `State.modify` of its operation, which `Stores.modify` describes; the two widths give the cells of the statement. -/
theorem modifyForms : Obligations.ModifyForms := by
  intro s a b p op h hr hw
  have hi : exec p.1 s = .next (s.modify p.2 op) := by
    rcases h with ⟨hp, rfl⟩ | ⟨hp, rfl⟩ | ⟨hp, rfl⟩ | ⟨hp, rfl⟩ | ⟨hp, rfl⟩ | ⟨hp, rfl⟩ | ⟨hp, rfl⟩ | ⟨hp, rfl⟩
    · exact exec_aslForms s a b p hp
    · exact exec_lsrForms s a b p hp
    · exact exec_rolForms s a b p hp
    · exact exec_rorForms s a b p hp
    · exact exec_incForms s a b p hp
    · exact exec_decForms s a b p hp
    · exact exec_tsbForms s a b p hp
    · exact exec_trbForms s a b p hp
  have hs := Stores.modify hi hr hw
  split
  · next hm =>
    have h8 : s.regs.p.widthM = .w8 := if_pos hm
    simpa only [h8, runOp, State.datum, State.cellsDown, lowByte_zeroExt] using hs
  · next hm =>
    have h16 : s.regs.p.widthM = .w16 := if_neg hm
    simpa only [h16, runOp, State.datum, State.cellsDown] using hs

/-- Settles O43: N and Z by `nzLaw`, C the bit shifted out, the results as numbers by the lemmas above. -/
theorem modifyLaws : Obligations.ModifyLaws := by
  intro w a v p hw nz top low z
  have hnz : ∀ (q : Status) (r : BitVec w), q.setNZ r = nz q r := nzLaw w
  have htop : v.msb = top := BitVec.msb_eq_getLsbD_last v
  have hz : ((a &&& v) == 0#w) = z := beq_zero_eq_toNat (a &&& v)
  refine ⟨⟨toNat_shiftLeft_one v, ?asl⟩, ⟨toNat_ushiftRight_one v, hnz _ _⟩, ⟨toNat_rmwRol a v p hw, ?rol⟩,
    ⟨toNat_rmwRor a v p hw, hnz _ _⟩, ⟨toNat_rmwInc a v p, hnz _ _⟩, ⟨toNat_rmwDec a v p hw, hnz _ _⟩, ⟨rfl, ?tsb⟩,
    ⟨rfl, ?trb⟩⟩
  case asl => rw [← htop]; exact hnz _ _
  case rol => rw [← htop]; exact hnz _ _
  case tsb => rw [← hz]; rfl
  case trb => rw [← hz]; rfl

/-- Settles O42: the accumulator forms by `Regs.aluA_eq` with A as the operand; DEX and DEY add -1. -/
theorem modifyRegisters : Obligations.ModifyRegisters := by
  intro s acc
  have hacc : ∀ op, s.regs.aluA op s.regs.a = acc op := fun op => s.regs.aluA_eq op s.regs.a
  simp only [← hacc, sub_eq_add_neg]
  exact ⟨.modifyAcc rfl, .modifyAcc rfl, .modifyAcc rfl, .modifyAcc rfl, .modifyAcc rfl, .modifyAcc rfl,
    .stepX rfl, .stepY rfl, .stepX rfl, .stepY rfl⟩

end Sys2Proof.Machine
end

section
/-! SUPPORT. Register transfers and exchange (44_transfer.md): the registers each writes, as the statement names them. -/

namespace Sys2Proof.Machine

/-! ## N and Z after a transfer (10_state.md R33) -/

/-- TXY and TYX: N and Z at width `wX` (44_transfer.md R266, R267). -/
theorem Status.setNZAt_widthX (p : Status) (v : Word) :
    p.setNZAt p.widthX v = if p.x then p.nz8 (lowByte v) else p.nz16 v := by
  unfold Status.widthX
  split
  · exact p.setNZAt_w8 v
  · exact p.setNZAt_w16 v

theorem Regs.setA16_eq (r : Regs) (v : Word) : r.setA16 v = { r with a := v, p := r.p.nz16 v } := by
  rw [Regs.setA16, Status.setNZ_word]

theorem Regs.setD_eq (r : Regs) (v : Word) : r.setD v = { r with d := v, p := r.p.nz16 v } := by
  rw [Regs.setD, Status.setNZ_word]

theorem Regs.exchangeA_eq (r : Regs) :
    r.exchangeA = { r with a := joinWord (lowByte r.a) (highByte r.a), p := r.p.nz8 (highByte r.a) } := by
  rw [Regs.exchangeA, Status.setNZ_byte]

/-! ## The shape, as a claim -/

/-- An instruction of one byte that changes registers only leaves the registers its function makes, in every state: it makes
no access. -/
theorem Becomes.implied {i : Instr} {s : State} {n : Nat} {f : Regs → Regs} {r : Regs}
    (hi : exec i s = .next (s.implied n f)) (hf : f s.regs = r) : Becomes i s r :=
  hf ▸ .of_upd (s.implied_upd n f) hi

/-! ## The statement -/

/-- Settles O44: each transfer is `State.implied` of one write to a register. TAX, TAY, TXA, TYA and TSX write as a load does;
TXS and TCS write S alone, by `Regs.setS`. -/
theorem transfers : Obligations.Transfers := by
  intro s r nzX sp
  have hnzX : ∀ v, r.p.setNZAt r.p.widthX v = nzX v := r.p.setNZAt_widthX
  have hsp : ∀ v, r.setS v = { r with s := sp v } := fun _ => rfl
  refine ⟨?tax, ?tay, ?txa, ?tya, ?tsx, ?txs, ?txy, ?tyx, ?tcd, ?tdc, ?tcs, ?tsc, ?xba⟩
  case tax => exact .implied rfl (r.loadX_eq_resultX r.a)
  case tay => exact .implied rfl (r.loadY_eq_resultY r.a)
  case txa => exact .implied rfl (r.loadA_eq_resultA r.x)
  case tya => exact .implied rfl (r.loadA_eq_resultA r.y)
  case tsx => exact .implied rfl (r.loadX_eq_resultX r.s)
  case txs => exact .implied rfl (hsp r.x)
  case txy => exact hnzX r.x ▸ .implied rfl rfl
  case tyx => exact hnzX r.y ▸ .implied rfl rfl
  case tcd => exact .implied rfl (r.setD_eq r.a)
  case tdc => exact .implied rfl (r.setA16_eq r.d)
  case tcs => exact .implied rfl (hsp r.a)
  case tsc => exact .implied rfl (r.setA16_eq r.s)
  case xba => exact .implied rfl r.exchangeA_eq

end Sys2Proof.Machine
end

section
/-! SUPPORT. Pushes and pulls (45_stack.md): the primitives and the instructions away from the I/O gate. -/

namespace Sys2Proof.Machine

/-! ## The primitives (45_stack.md R280 to R282) -/

/-- One push: the byte is stored at `00:S` and only then S moves. -/
theorem OnlyStores.push8 {s : State} (h : s.OffIo .write [joinAddr 0x00 s.regs.s]) (full : Bool) (b : Byte) :
    (s.push8 full b).regs = { s.regs with s := stackDown (s.regs.e && !full) s.regs.s } ∧
      OnlyStores s (s.push8 full b) [(joinAddr 0x00 s.regs.s, b)] := by
  obtain ⟨c, hc⟩ := State.push8_offIo h.head full b
  exact hc ▸ ⟨rfl, OnlyStores.upd s _ c _⟩

/-- One pull: S moves first, and the byte is read at `00:S` as it then stands. -/
theorem OnlyRegs.pull8 {s : State} {full : Bool} {sp : Word} (hsp : stackUp (s.regs.e && !full) s.regs.s = sp)
    (h : s.OffIo .read [joinAddr 0x00 sp]) :
    (s.pull8 full).1 = s.peek (joinAddr 0x00 sp) ∧ (s.pull8 full).2.regs = { s.regs with s := sp } ∧
      OnlyRegs s (s.pull8 full).2 := by
  subst hsp
  obtain ⟨c, hc⟩ := State.pull8_offIo h
  exact hc ▸ ⟨rfl, rfl, OnlyRegs.upd s _ c⟩

/-- Settles O45: `push8` and `pull8` with S confined in emulation mode, and `Push8N` and `Pull8N` with S of 16 bits. -/
theorem stackPrimitives : Obligations.StackPrimitives := by
  intro s b down up
  have hdown : stackDown (s.regs.e && !false) s.regs.s = down := by rw [Bool.not_false, Bool.and_true]; rfl
  have hup : stackUp (s.regs.e && !false) s.regs.s = up := by rw [Bool.not_false, Bool.and_true]; rfl
  have hdownN : stackDown (s.regs.e && !true) s.regs.s = s.regs.s - 1 := by rw [Bool.not_true, Bool.and_false]; rfl
  have hupN : stackUp (s.regs.e && !true) s.regs.s = s.regs.s + 1 := by rw [Bool.not_true, Bool.and_false]; rfl
  exact ⟨fun h => hdown ▸ OnlyStores.push8 h false b, OnlyRegs.pull8 hup,
    fun h => hdownN ▸ OnlyStores.push8 h true b, OnlyRegs.pull8 hupN⟩

/-! ## The shapes, as claims -/

theorem Width.length_pushBytes (w : Width) (v : Word) : (w.pushBytes v).length = w.bytes := by cases w <;> rfl

/-- The bytes pushed at the width a flag chooses. -/
theorem Width.pushBytes_flag (narrow : Bool) (v : Word) :
    (if narrow then Width.w8 else .w16).pushBytes v = if narrow then [lowByte v] else [highByte v, lowByte v] := by
  cases narrow <;> rfl

theorem Width.pushBytes_zeroExt (b : Byte) : Width.w8.pushBytes (zeroExt b) = [b] := by
  rw [Width.pushBytes, lowByte_zeroExt]

/-- At the end of an instruction S is latched. -/
theorem State.upd_endQuirk_latched (s : State) {r : Regs} (he : r.e = s.regs.e) (sp : Word) (c : Clock) (m : Memory)
    (u : StackUser) :
    (s.upd { r with s := sp } c m).endQuirk (s.quirk u) = s.upd { r with s := s.latched u sp } c m := by
  rw [State.upd_endQuirk, he, Bool.and_comm]
  rfl

/-- A push at a width with the end of its instruction: the bytes are stored, S is lowered and latched. -/
theorem State.pushAt_endQuirk_offIo {s : State} {u : StackUser} {w : Width} {v : Word}
    (h : s.OffIo .write ((s.pushCells u (w.pushBytes v)).map Prod.fst)) :
    ∃ c, (s.pushAt (s.quirk u) w v).endQuirk (s.quirk u) =
      s.upd { s.regs with s := s.pushedS u w.bytes } c (s.storeCells (s.pushCells u (w.pushBytes v))) := by
  obtain ⟨c, hc⟩ := State.pushAt_offIo h
  exact ⟨c, by rw [hc, s.upd_endQuirk_latched rfl]; rfl⟩

/-- An instruction that pushes a value, its cells off the I/O pages, stores the bytes of the value and moves S alone. -/
theorem Stores.pushing {i : Instr} {s : State} {n len : Nat} {u : StackUser} {w : Width} {v : Word} {bytes : List Byte}
    (hi : exec i s = .next (s.pushing n len u w v)) (hb : w.pushBytes v = bytes)
    (h : s.OffIo .write ((s.pushCells u bytes).map Prod.fst)) :
    Stores i s { s.regs with s := s.pushedS u bytes.length } (s.pushCells u bytes) := by
  subst hb
  obtain ⟨c, hc⟩ := State.pushAt_endQuirk_offIo h
  rw [Width.length_pushBytes]
  exact .of_upd ⟨_, by rw [State.pushing, hc, State.settle, State.upd_internal]⟩ hi

/-- PEI reads its pointer before it pushes it (45_stack.md R299). -/
theorem Stores.pushPointer {i : Instr} {s : State} {dp : Byte} (hi : exec i s = .next (s.pushPointer dp))
    (hr : s.OffIo .read (wordAddrs 0x00 false (s.regs.dpAddr dp 0)))
    (h : s.OffIo .write
      ((s.pushCells .pei (Width.w16.pushBytes (s.word 0x00 false (s.regs.dpAddr dp 0)))).map Prod.fst)) :
    Stores i s { s.regs with s := s.pushedS .pei 2 }
      (s.pushCells .pei (Width.w16.pushBytes (s.word 0x00 false (s.regs.dpAddr dp 0)))) := by
  refine .of_upd ?_ hi
  obtain ⟨c, hv⟩ := State.read16_offIo hr
  obtain ⟨c', hp⟩ := State.pushAt_endQuirk_offIo (s := s.upd s.regs c s.bus.mem) (h.upd _ _ _)
  rw [State.upd_quirk] at hp
  simp only [State.pushPointer, State.read16Bank0, hv, hp, State.settle, State.upd_internal, State.upd_upd,
    State.upd_storeCells]
  exact ⟨_, rfl⟩

/-- An instruction that pulls a value, off the I/O pages: its function makes the registers `r` and leaves S at `sp`, which is
then latched. -/
theorem Becomes.pulling {i : Instr} {s : State} {n : Nat} {u : StackUser} {w : Width} {f : Word → Regs → Regs} {r : Regs}
    {sp : Word} (hi : exec i s = .next (s.pulling n u w f))
    (hf : f (s.pulledAt u w) { s.regs with s := stackMove (stackUp (s.confined u)) w.bytes s.regs.s } = { r with s := sp })
    (he : r.e = s.regs.e) (hsp : s.latched u sp = s.pulledS u w.bytes) (h : s.OffIo .read (s.pullAddrs u w.bytes)) :
    Becomes i s { r with s := s.pulledS u w.bytes } := by
  obtain ⟨c, hc⟩ := State.pullAt_offIo h
  refine .of_upd ?_ hi
  rw [State.pulling, hc, State.upd_mapRegs, hf, s.upd_endQuirk_latched he, hsp, State.settle, State.upd_internal]
  exact ⟨_, rfl⟩

/-- P from a byte of the stack: what `Normalize()` makes of S shows in S alone. -/
theorem Regs.pullP_setS (v : Word) (r : Regs) (sp : Word) :
    Regs.pullP v { r with s := sp } =
      { Regs.pullP v r with s := if r.e then joinWord 0x01 (lowByte sp) else sp } := by
  simp only [Regs.pullP, Regs.normalize_eq]

/-- After a pull `Normalize()` makes nothing of S that the pull or the latch does not: a confined pull ends in page 0x01. -/
theorem State.latched_page (s : State) (u : StackUser) :
    s.latched u (if s.regs.e then joinWord 0x01 (lowByte (stackUp (s.confined u) s.regs.s))
      else stackUp (s.confined u) s.regs.s) = s.pulledS u 1 := by
  simp only [State.pulledS, State.latched, State.confined, stackMove]
  cases s.regs.e <;> cases s.quirk u <;> simp [stackUp]

theorem State.pulledAt_flag (s : State) (u : StackUser) (narrow : Bool) :
    s.pulledAt u (if narrow then .w8 else .w16) =
      if narrow then zeroExt (s.pulledByte u 1) else joinWord (s.pulledByte u 2) (s.pulledByte u 1) := by
  cases narrow <;> rfl

theorem Width.bytes_flag (narrow : Bool) : (if narrow then Width.w8 else .w16).bytes = if narrow then 1 else 2 := by
  cases narrow <;> rfl

/-! ## The statements -/

/-- Settles O46: each push is `State.pushing` of its value at its width, but for PEI, which reads its value first. -/
theorem pushes : Obligations.Pushes := by
  intro s pushes bytes
  refine ⟨?pha, ?phx, ?phy, ?php, ?phb, ?phk, ?phd, fun v => ?pea, fun b hr => ?pei, fun d => ?per⟩
  case pha => exact .pushing rfl (Width.pushBytes_flag s.regs.p.m s.regs.a)
  case phx => exact .pushing rfl (Width.pushBytes_flag s.regs.p.x s.regs.x)
  case phy => exact .pushing rfl (Width.pushBytes_flag s.regs.p.x s.regs.y)
  case php => exact .pushing rfl (Width.pushBytes_zeroExt s.regs.p.toByte)
  case phb => exact .pushing rfl (Width.pushBytes_zeroExt s.regs.dbr)
  case phk => exact .pushing rfl (Width.pushBytes_zeroExt s.regs.pbr)
  case phd => exact .pushing rfl rfl
  case pea => exact .pushing rfl rfl
  case pei => exact .pushPointer rfl hr
  case per => exact .pushing rfl rfl

/-- Settles O47: each pull is `State.pulling` of its load at its width; PLP alone writes S too, since it normalizes. -/
theorem pulls : Obligations.Pulls := by
  intro s pulls two val n
  have hval : ∀ u narrow, s.pulledAt u (if narrow then .w8 else .w16) = val u narrow := s.pulledAt_flag
  have hn : ∀ narrow, (if narrow then Width.w8 else .w16).bytes = n narrow := Width.bytes_flag
  refine ⟨?pla, ?plx, ?ply, ?plp, ?plb, ?pld⟩
  case pla =>
    rw [← hval, ← Regs.loadA_eq_resultA, ← hn]
    exact .pulling rfl rfl rfl rfl
  case plx =>
    rw [← hval, ← Regs.loadX_eq_resultX, ← hn]
    exact .pulling rfl rfl rfl rfl
  case ply =>
    rw [← hval, ← Regs.loadY_eq_resultY, ← hn]
    exact .pulling rfl rfl rfl rfl
  case plp =>
    have h8 : lowByte (s.pulledAt .plp .w8) = s.pulledByte .plp 1 := lowByte_zeroExt _
    rw [← h8]
    exact .pulling (w := .w8) rfl (Regs.pullP_setS _ _ _) (Regs.normalize_e _) (s.latched_page .plp)
  case plb =>
    have h8 : lowByte (s.pulledAt .plb .w8) = s.pulledByte .plb 1 := lowByte_zeroExt _
    rw [← h8, ← Status.setNZ_byte]
    exact .pulling (w := .w8) rfl rfl rfl rfl
  case pld =>
    rw [← Regs.setD_eq]
    exact .pulling (w := .w16) rfl rfl rfl rfl

end Sys2Proof.Machine
end

section
/-! SUPPORT. A pull after a push (45_stack.md R283, R301): where the bytes of a push lie, and that the pulls find them again. -/

namespace Sys2Proof.Machine

/-! ## Where S goes -/

theorem toNat_joinWord (h l : Byte) : (joinWord h l).toNat = h.toNat * 2 ^ 8 + l.toNat := by
  rw [joinWord, BitVec.toNat_append, ← Nat.shiftLeft_add_eq_or_of_lt l.isLt, Nat.shiftLeft_eq]

/-- Away from a page's lowest byte a decrement stays in the page. -/
theorem joinWord_sub_one (h : Byte) {l : Byte} (hl : l ≠ 0) : joinWord h l - 1 = joinWord h (l - 1) := by
  apply BitVec.eq_of_toNat_eq
  have hw := toNat_joinWord h l
  have hw' := toNat_joinWord h (l - 1)
  bv_omega

/-- A push takes S down within page 0x01: when it is confined there, or away from the page's lowest byte. -/
theorem stackDown_page {confined : Bool} {l : Byte} (h : confined = true ∨ l ≠ 0) :
    stackDown confined (joinWord 0x01 l) = joinWord 0x01 (l - 1) := by
  cases confined with
  | true => rw [stackDown, if_pos rfl, lowByte_joinWord]
  | false => exact joinWord_sub_one 0x01 (h.resolve_left Bool.false_ne_true)

/-- A pull takes S back up. -/
theorem stackUp_page {confined : Bool} {l : Byte} (h : confined = true ∨ l ≠ 0) :
    stackUp confined (joinWord 0x01 (l - 1)) = joinWord 0x01 l := by
  cases confined with
  | true => rw [stackUp, if_pos rfl, lowByte_joinWord, BitVec.sub_add_cancel]
  | false =>
    rw [← joinWord_sub_one 0x01 (h.resolve_left Bool.false_ne_true)]
    exact BitVec.sub_add_cancel _ _

theorem stackMove_succ (f : Word → Word) (n : Nat) (sp : Word) : stackMove f (n + 1) sp = f (stackMove f n sp) := by
  induction n generalizing sp with
  | zero => rfl
  | succ n ih => exact ih (f sp)

/-- Where S stands `i` bytes down: in page 0x01 in emulation mode. -/
def Regs.stackAt (r : Regs) (i : Nat) : Word :=
  if r.e then joinWord 0x01 (lowByte r.s - BitVec.ofNat 8 i) else r.s - BitVec.ofNat 16 i

/-- `n` bytes can be pushed and pulled back without crossing an edge of page 0x01 in emulation mode: the accesses are
confined to it, or S.l is at least `n` (45_stack.md R301). -/
def Regs.Room (r : Regs) (full : Bool) (n : Nat) : Prop := r.e = false ∨ full = false ∨ n ≤ (lowByte r.s).toNat

section
variable {r : Regs} {full : Bool} {n : Nat}

theorem Regs.stackAt_zero (h : r.Paged) : r.stackAt 0 = r.s := by
  unfold Regs.stackAt
  split
  · next he => rw [BitVec.sub_zero, ← h he, joinWord_parts]
  · exact BitVec.sub_zero r.s

theorem Regs.stackAt_inj {i j : Nat} (hi : i < 256) (hj : j < 256) (h : r.stackAt i = r.stackAt j) : i = j := by
  unfold Regs.stackAt at h
  split at h
  · have hl := (joinWord_inj h).2
    bv_omega
  · bv_omega

/-- In emulation mode: the byte a move starts from lies above the page's lowest, or the move is confined. -/
theorem Regs.Room.page (h : r.Room full n) (he : r.e = true) {i : Nat} (hi : i < n) :
    (r.e && !full) = true ∨ lowByte r.s - BitVec.ofNat 8 i ≠ 0 := by
  rcases h with h | h | h
  · simp [h] at he
  · exact .inl (by simp [h, he])
  · right
    bv_omega

theorem Regs.stackDown_stackAt (h : r.Room full n) {i : Nat} (hi : i < n) :
    stackDown (r.e && !full) (r.stackAt i) = r.stackAt (i + 1) := by
  cases he : r.e with
  | false =>
    simp only [Regs.stackAt, he, stackDown, Bool.false_and, Bool.false_eq_true, if_false]
    bv_omega
  | true =>
    simp only [Regs.stackAt, he, if_true, BitVec.ofNat_add, ← BitVec.sub_sub]
    exact stackDown_page (he ▸ h.page he hi)

theorem Regs.stackUp_stackAt (h : r.Room full n) {i : Nat} (hi : i < n) :
    stackUp (r.e && !full) (r.stackAt (i + 1)) = r.stackAt i := by
  cases he : r.e with
  | false =>
    simp only [Regs.stackAt, he, stackUp, Bool.false_and, Bool.false_eq_true, if_false]
    bv_omega
  | true =>
    simp only [Regs.stackAt, he, if_true, BitVec.ofNat_add, ← BitVec.sub_sub]
    exact stackUp_page (he ▸ h.page he hi)

theorem Regs.stackMove_down (hp : r.Paged) (h : r.Room full n) {i : Nat} (hi : i ≤ n) :
    stackMove (stackDown (r.e && !full)) i r.s = r.stackAt i := by
  induction i with
  | zero => exact (Regs.stackAt_zero hp).symm
  | succ i ih => rw [stackMove_succ, ih (by omega), Regs.stackDown_stackAt h (by omega)]

theorem Regs.stackMove_up (h : r.Room full n) {i : Nat} (hi : i ≤ n) :
    stackMove (stackUp (r.e && !full)) i (r.stackAt n) = r.stackAt (n - i) := by
  induction i with
  | zero => rfl
  | succ i ih =>
    have hsub : n - i = n - (i + 1) + 1 := by omega
    rw [stackMove_succ, ih (by omega), hsub, Regs.stackUp_stackAt h (by omega)]

end

/-- The latch at the end of an instruction finds S in page 0x01. -/
theorem State.latched_stackAt (s : State) (u : StackUser) (i : Nat) :
    s.latched u (s.regs.stackAt i) = s.regs.stackAt i := by
  unfold State.latched Regs.stackAt
  cases s.regs.e with
  | false => rfl
  | true => simp

/-! ## The bytes pushed, found again -/

theorem getElem?_pushedCells (confined : Bool) (sp : Word) (bs : List Byte) (i : Nat) :
    (pushedCells confined sp bs)[i]? =
      bs[i]?.map fun b => (joinAddr 0x00 (stackMove (stackDown confined) i sp), b) := by
  induction bs generalizing sp i with
  | nil => rfl
  | cons b bs ih =>
    cases i with
    | zero => rfl
    | succ i => exact ih _ i

/-- On the flat platform a byte stored is read back where no other byte is stored to its address. -/
theorem State.Flat.peek_storeCells_of_mem {s : State} (h : s.Flat) (hm : s.bus.mem.wf = true)
    {cells : List (Addr × Byte)} {c : Addr × Byte} (hc : c ∈ cells) (hu : ∀ c' ∈ cells, c'.1 = c.1 → c' = c) :
    (s.upd s.regs s.clock (s.storeCells cells)).peek c.1 = c.2 := by
  have hfind : cells.reverse.find? (fun c' => c'.1 == c.1) = some c := by
    cases hc' : cells.reverse.find? (fun c' => c'.1 == c.1) with
    | none => exact absurd (beq_self_eq_true c.1) (List.find?_eq_none.mp hc' c (List.mem_reverse.mpr hc))
    | some c' =>
      have hmem : c' ∈ cells := List.mem_reverse.mp (List.mem_of_find?_eq_some hc')
      rw [hu c' hmem (eq_of_beq (List.find?_some hc' :))]
  rw [h.peek_storeCells hm, hfind]
  rfl

/-- An instruction that stores leaves the platform flat. -/
theorem OnlyStores.flat {s t : State} {cells : List (Addr × Byte)} (h : OnlyStores s t cells) (hf : s.Flat) : t.Flat where
  banks := by rw [h.params, hf.banks]
  bankMap := by rw [h.bankMap, hf.bankMap]
  readPages := by rw [h.readPages, hf.readPages]
  writePages := by rw [h.writePages, hf.writePages]

/-- From `s`, `n` bytes pushed by `u` can be pulled again by `u'`: the stack is RAM, and neither crosses an edge of page 0x01
in emulation mode. -/
structure State.Balanced (s : State) (u u' : StackUser) (n : Nat) : Prop where
  flat : s.Flat
  wf : s.bus.mem.wf = true
  paged : s.regs.Paged
  push : s.regs.Room (s.quirk u) n
  pull : s.regs.Room (s.quirk u') n
  short : n ≤ 256

/-- `t` is `s` after `u` has pushed `bs`, as far as a pull sees it. -/
structure State.Pushed (s t : State) (u : StackUser) (bs : List Byte) : Prop where
  e : t.regs.e = s.regs.e
  sp : t.regs.s = s.pushedS u bs.length
  stores : OnlyStores s t (s.pushCells u bs)

section
variable {s t : State} {u u' : StackUser} {bs : List Byte}

theorem State.Balanced.pushedS (h : s.Balanced u u' bs.length) :
    s.pushedS u bs.length = s.regs.stackAt bs.length := by
  rw [State.pushedS, State.confined, Regs.stackMove_down h.paged h.push le_rfl, State.latched_stackAt]

/-- The bytes of a push lie one below the other. -/
theorem State.Balanced.mem_pushCells (h : s.Balanced u u' bs.length) (c : Addr × Byte) :
    c ∈ s.pushCells u bs ↔ ∃ i, ∃ hi : i < bs.length, c = (joinAddr 0x00 (s.regs.stackAt i), bs[i]) := by
  simp only [List.mem_iff_getElem?, State.pushCells, State.confined, getElem?_pushedCells, Option.map_eq_some_iff,
    List.getElem?_eq_some_iff]
  refine exists_congr fun i => ⟨?_, ?_⟩
  · rintro ⟨b, ⟨hi, rfl⟩, rfl⟩
    exact ⟨hi, by rw [Regs.stackMove_down h.paged h.push hi.le]⟩
  · rintro ⟨hi, rfl⟩
    exact ⟨_, ⟨hi, rfl⟩, by rw [Regs.stackMove_down h.paged h.push hi.le]⟩

/-- What a push leaves to be read in the stack: no two of its bytes share an address. -/
theorem State.Balanced.peek_pushed (h : s.Balanced u u' bs.length) (ht : s.Pushed t u bs) {i : Nat}
    (hi : i < bs.length) : t.peek (joinAddr 0x00 (s.regs.stackAt i)) = bs[i] := by
  rw [ht.stores.peek]
  refine h.flat.peek_storeCells_of_mem (c := (joinAddr 0x00 (s.regs.stackAt i), bs[i])) h.wf
    ((h.mem_pushCells _).mpr ⟨i, hi, rfl⟩) fun c hc heq => ?_
  obtain ⟨j, hj, rfl⟩ := (h.mem_pushCells _).mp hc
  have hij : j = i :=
    Regs.stackAt_inj (hj.trans_le h.short) (hi.trans_le h.short) (joinAddr_inj heq).2
  subst hij
  rfl

/-- The pulls take S back up the way the pushes took it down. -/
theorem State.Balanced.stackMove_pull (h : s.Balanced u u' bs.length) (ht : s.Pushed t u bs) {i : Nat}
    (hi : i ≤ bs.length) :
    stackMove (stackUp (t.confined u')) i t.regs.s = s.regs.stackAt (bs.length - i) := by
  have hconf : t.confined u' = (s.regs.e && !s.quirk u') := by
    rw [State.confined, State.quirk, ht.e, ht.stores.params]
    rfl
  rw [hconf, ht.sp, h.pushedS, Regs.stackMove_up h.pull hi]

/-- The pulls restore S. -/
theorem State.Balanced.pulledS (h : s.Balanced u u' bs.length) (ht : s.Pushed t u bs) :
    t.pulledS u' bs.length = s.regs.s := by
  have hlatch : ∀ sp, t.latched u' sp = s.latched u' sp := fun sp => by
    rw [State.latched, State.quirk, ht.e, ht.stores.params]
    rfl
  rw [State.pulledS, h.stackMove_pull ht le_rfl, hlatch, State.latched_stackAt, Nat.sub_self, Regs.stackAt_zero h.paged]

/-- The pulls read the bytes pushed, the last one first. -/
theorem State.Balanced.pulledByte (h : s.Balanced u u' bs.length) (ht : s.Pushed t u bs) {i : Nat}
    (hi : i < bs.length) : t.pulledByte u' (i + 1) = bs[bs.length - (i + 1)] := by
  rw [State.pulledByte, h.stackMove_pull ht hi, h.peek_pushed ht]

/-- A pull at the width of the push gives the value pushed. -/
theorem State.Balanced.pulledAt {w : Width} {v : Word} (h : s.Balanced u u' (w.pushBytes v).length)
    (ht : s.Pushed t u (w.pushBytes v)) : t.pulledAt u' w = w.take v := by
  cases w with
  | w8 => exact congrArg zeroExt (h.pulledByte ht (i := 0) Nat.one_pos)
  | w16 =>
    have hlow : t.pulledByte u' 1 = lowByte v := h.pulledByte ht (i := 0) Nat.two_pos
    have hhigh : t.pulledByte u' 2 = highByte v := h.pulledByte ht (i := 1) Nat.one_lt_two
    rw [State.pulledAt, hlow, hhigh, joinWord_parts]
    rfl

end

/-! ## The pairs of instructions -/

theorem Width.insert_take (w : Width) (v : Word) : w.insert v (w.take v) = v := by
  cases w with
  | w8 => rw [Width.insert, Width.take, lowByte_zeroExt, joinWord_parts]
  | w16 => rfl

theorem Width.take_take (w : Width) (v : Word) : w.take (w.take v) = w.take v := by
  cases w with
  | w8 => exact congrArg zeroExt (lowByte_zeroExt _)
  | w16 => rfl

/-- X and Y hold no more than their width (10_state.md R36). -/
theorem Regs.Ok.take_index {r : Regs} (h : r.Ok) : r.p.widthX.take r.x = r.x ∧ r.p.widthX.take r.y = r.y := by
  unfold Status.widthX
  split
  · next hx => exact ⟨zeroExt_lowByte (h.idx hx).1, zeroExt_lowByte (h.idx hx).2⟩
  · exact ⟨rfl, rfl⟩

/-- Registers that meet the invariants are normalized (10_state.md R36, R37). -/
theorem Regs.Ok.normalize_eq_self {r : Regs} (h : r.Ok) : r.normalize = r := by
  have hm : (r.p.m || r.e) = r.p.m := by
    cases he : r.e with
    | false => exact Bool.or_false _
    | true => rw [(h.emu he).1, Bool.or_true]
  have hx : (r.p.x || r.e) = r.p.x := by
    cases he : r.e with
    | false => exact Bool.or_false _
    | true => rw [(h.emu he).2.1, Bool.or_true]
  have hs : (if r.e = true then joinWord 0x01 (lowByte r.s) else r.s) = r.s := by
    split
    · next he => rw [← (h.emu he).2.2, joinWord_parts]
    · rfl
  have hi : ∀ v : Word, (r.p.x = true → highByte v = 0x00) →
      (if r.p.x = true ∨ r.e = true then joinWord 0x00 (lowByte v) else v) = v := fun v hv => by
    split
    · next hxe => rw [← hv (hxe.elim id fun he => (h.emu he).2.1), joinWord_parts]
    · rfl
  rw [Regs.normalize_eq, hm, hx, hs, hi r.x fun hx => (h.idx hx).1, hi r.y fun hx => (h.idx hx).2]

/-- P pushed and pulled is P, and normalizing it changes no register but S (45_stack.md R291, R292). -/
theorem Regs.Ok.pullP_toByte {r : Regs} (h : r.Ok) : Regs.pullP (zeroExt r.p.toByte) r = r := by
  rw [Regs.pullP, lowByte_zeroExt, ofByte_toByte]
  exact h.normalize_eq_self

/-- A push of a value and a pull at its width: the pull's function gets the value, S is restored. -/
theorem State.Balanced.pushPull {s : State} {i i' : Instr} {u u' : StackUser} {w : Width} {v : Word}
    {f : Word → Regs → Regs} {kept : Regs → Prop} (h : s.Balanced u u' w.bytes)
    (hpush : s.OffIo .write ((s.pushCells u (w.pushBytes v)).map Prod.fst) →
      Stores i s { s.regs with s := s.pushedS u (w.pushBytes v).length } (s.pushCells u (w.pushBytes v)))
    (hpull : ∀ t : State, t.regs.p = s.regs.p → t.OffIo .read (t.pullAddrs u' w.bytes) →
      Becomes i' t { f (t.pulledAt u' w) t.regs with s := t.pulledS u' w.bytes })
    (hkept : ∀ sp, kept { f (w.take v) { s.regs with s := sp } with s := s.regs.s }) :
    ∃ t t', exec i s = .next t ∧ exec i' t = .next t' ∧ kept t'.regs ∧ t'.regs.s = s.regs.s := by
  rw [← w.length_pushBytes v] at h hpull
  obtain ⟨t, hexec, hregs, hstores⟩ := hpush (h.flat.offIo _ _)
  have ht : s.Pushed t u (w.pushBytes v) := ⟨by rw [hregs], by rw [hregs], hstores⟩
  obtain ⟨t', hexec', hregs', -⟩ := hpull t (by rw [hregs]) ((hstores.flat h.flat).offIo _ _)
  rw [h.pulledAt ht, h.pulledS ht, hregs] at hregs'
  exact ⟨t, t', hexec, hexec', hregs' ▸ hkept _, by rw [hregs']⟩

/-- Settles O48: each pair is a push and a pull at one width, which give the register its own value back. -/
theorem stackBalance : Obligations.StackBalance := by
  intro s hflat hwf hok safe pair
  have hbal : ∀ {u u'} (w : Width), safe u u' → s.Balanced u u' w.bytes := fun w h =>
    have hw : w.bytes ≤ 2 := by cases w <;> decide
    { flat := hflat, wf := hwf, paged := ((Regs.ok_iff _).mp hok).2
      push := h.imp id (Or.imp And.left hw.trans)
      pull := h.imp id (Or.imp And.right hw.trans)
      short := hw.trans (by decide) }
  refine ⟨fun h => ?pha, fun h => ?phx, fun h => ?phy, fun h => ?php, fun h => ?phb, fun h => ?phd⟩
  case pha =>
    refine (hbal s.regs.p.widthM h).pushPull (f := fun v r => r.loadA s.regs.p.widthM v) (kept := (·.a = s.regs.a))
      (.pushing rfl rfl) (fun t hp => ?_) fun _ => Width.insert_take _ _
    exact hp ▸ .pulling rfl rfl rfl rfl
  case phx =>
    refine (hbal s.regs.p.widthX h).pushPull (f := fun v r => r.loadX v) (kept := (·.x = s.regs.x))
      (.pushing rfl rfl) (fun t hp => ?_) fun _ => (Width.take_take _ _).trans hok.take_index.1
    exact hp ▸ .pulling rfl rfl rfl rfl
  case phy =>
    refine (hbal s.regs.p.widthX h).pushPull (f := fun v r => r.loadY v) (kept := (·.y = s.regs.y))
      (.pushing rfl rfl) (fun t hp => ?_) fun _ => (Width.take_take _ _).trans hok.take_index.2
    exact hp ▸ .pulling rfl rfl rfl rfl
  case php =>
    have hp : Regs.pullP (Width.w8.take (zeroExt s.regs.p.toByte)) s.regs = s.regs := by
      rw [Width.take, lowByte_zeroExt, hok.pullP_toByte]
    refine (hbal .w8 h).pushPull (f := Regs.pullP)
      (kept := fun r => r.p = s.regs.p ∧ r.x = s.regs.x ∧ r.y = s.regs.y)
      (.pushing rfl rfl) (fun t _ => ?_) fun _ => by rw [Regs.pullP_setS, hp]; exact ⟨rfl, rfl, rfl⟩
    exact .pulling rfl (Regs.pullP_setS _ _ _) (Regs.normalize_e _) (t.latched_page .plp)
  case phb =>
    refine (hbal .w8 h).pushPull (f := Regs.pullB) (kept := (·.dbr = s.regs.dbr))
      (.pushing rfl rfl) (fun t _ => .pulling rfl rfl rfl rfl) fun _ => ?_
    simp only [Regs.pullB, Width.take, lowByte_zeroExt]
  case phd =>
    exact (hbal .w16 h).pushPull (f := fun v r => r.setD v) (kept := (·.d = s.regs.d)) (.pushing rfl rfl)
      (fun t _ => .pulling rfl rfl rfl rfl) fun _ => rfl

end Sys2Proof.Machine
end

section
/-! SUPPORT. Branches, jumps, calls and returns away from the I/O gate (46_flow.md). -/

namespace Sys2Proof.Machine

/-! ## Branches (46_flow.md R310) -/

/-- A branch moves PC alone, and only where its condition holds. -/
theorem State.branch_upd (s : State) (cond : Bool) (d : Byte) :
    ∃ c, s.branch cond d =
      s.upd (s.regs.at (if cond then s.regs.pc + d.signExtend 16 else s.regs.pc)) c s.bus.mem := by
  cases cond with
  | false => exact ⟨_, rfl⟩
  | true => exact ⟨_, rfl⟩

/-- A branch completes in every state: it makes no access. -/
theorem Becomes.branch {i : Instr} {s : State} {cond : Bool} {d : Byte} (hi : exec i s = .next (s.branch cond d)) :
    Becomes i s (s.regs.at (if cond then s.regs.pc + d.signExtend 16 else s.regs.pc)) :=
  .of_upd (s.branch_upd cond d) hi

/-- Settles O49: each conditional branch and BRA is `State.branch` of its condition; BRL moves PC itself. -/
theorem branches : Obligations.Branches := by
  intro s d goes
  refine ⟨?bcc, ?bcs, ?bne, ?beq, ?bpl, ?bmi, ?bvc, ?bvs, ?bra, fun d16 => ?brl⟩
  case brl => exact .of_upd ⟨_, rfl⟩ rfl
  all_goals exact .branch rfl

/-! ## Jumps (46_flow.md R321, R322) -/

/-- A jump whose target took only time to find moves PC to it. -/
theorem Becomes.jump {i : Instr} {s : State} {n : Nat} {t : Word × State} {v : Word}
    (hi : exec i s = .next (s.jump n t)) (ht : ∃ c, t = (v, s.upd s.regs c s.bus.mem)) : Becomes i s (s.regs.at v) := by
  obtain ⟨c, rfl⟩ := ht
  exact .of_upd ⟨_, rfl⟩ hi

/-- The same to any bank. -/
theorem Becomes.jumpLong {i : Instr} {s : State} {n len : Nat} {t : Addr × State} {v : Addr}
    (hi : exec i s = .next (s.jumpLong n len t)) (ht : ∃ c, t = (v, s.upd s.regs c s.bus.mem)) :
    Becomes i s { s.regs with pc := offsetOf v, pbr := bankOf v } := by
  obtain ⟨c, rfl⟩ := ht
  exact .of_upd ⟨_, rfl⟩ hi

/-- `JMP_IND_PAGE_WRAP` as a condition on its value and on E (40_addressing.md R165). -/
theorem jmpIndWraps_eq (wrap : JmpIndWrap) (e : Bool) :
    jmpIndWraps wrap e = decide (wrap = .always ∨ (wrap = .emulationOnly ∧ e = true)) := by
  cases wrap <;> simp [jmpIndWraps]

/-- Settles O50: each jump is `State.jump` or `State.jumpLong` of its operand, or of the pointer it reads. -/
theorem jumps : Obligations.Jumps := by
  intro s a l wraps
  have hwraps : jmpIndWraps s.params.jmpIndPageWrap s.regs.e = wraps := jmpIndWraps_eq _ _
  refine ⟨?pcAbs, fun h => ?pcInd, fun h => ?pcIndX, ?pcLong, fun h => ?pcIndLong⟩
  case pcAbs => exact .jump rfl ⟨s.clock, rfl⟩
  case pcInd => exact .jump rfl (by rw [State.targetInd, hwraps]; exact State.read16_offIo h)
  case pcIndX => exact .jump rfl (State.read16_offIo h)
  case pcLong => exact .jumpLong rfl ⟨s.clock, rfl⟩
  case pcIndLong => exact .jumpLong rfl (State.read24_offIo h)

/-! ## Calls (46_flow.md R323, R324) -/

/-- How every call and return ends: registers other than S are written, S is latched, cycles are charged. -/
theorem State.settle_endQuirk_upd (s : State) (u : StackUser) {f : Regs → Regs} {r r' : Regs} {sp : Word}
    (hf : f r' = { r with s := sp }) (he : r.e = s.regs.e) (c : Clock) (m : Memory) (n len : Nat) :
    ∃ c', (((s.upd r' c m).mapRegs f).endQuirk (s.quirk u)).settle n len s =
      s.upd { r with s := s.latched u sp } c' m := by
  rw [State.upd_mapRegs, hf, s.upd_endQuirk_latched he, State.settle, State.upd_internal]
  exact ⟨_, rfl⟩

/-- The bytes of a return address, that of the last byte of the call, in the order they are pushed. -/
def State.returnBytes (s : State) : List Byte := [highByte (s.regs.pc - 1), lowByte (s.regs.pc - 1)]

@[simp] theorem State.length_returnBytes (s : State) : s.returnBytes.length = 2 := rfl

theorem State.pushReturn_eq (s : State) (full : Bool) : s.pushReturn full = s.pushAll full s.returnBytes := rfl

/-- JSL pushes PBR before its return address, which the push leaves as it was. -/
theorem State.push8_pushReturn_eq (s : State) (full : Bool) :
    (s.push8 full s.regs.pbr).pushReturn full = s.pushAll full (s.regs.pbr :: s.returnBytes) := by
  rw [State.pushReturn_eq, State.returnBytes, State.push8_regs]
  rfl

section
variable {s : State}

/-- JSR stores its return address, then takes PC from its operand (46_flow.md R323). -/
theorem Stores.call (a : Word) (h : s.OffIo .write ((s.pushCells .jsr s.returnBytes).map Prod.fst)) :
    Stores (.jsrPcAbs a) s { s.regs with pc := a, s := s.pushedS .jsr 2 } (s.pushCells .jsr s.returnBytes) := by
  obtain ⟨c, hc⟩ := State.pushAll_offIo h
  refine .of_upd (u := s.call a) ?_ rfl
  rw [State.call, State.pushReturn_eq, hc]
  exact s.settle_endQuirk_upd .jsr (r := { s.regs with pc := a }) rfl rfl _ _ _ _

/-- JSL stores PBR and its return address, then takes PC and PBR from its operand (46_flow.md R324). -/
theorem Stores.callLong (l : Addr)
    (h : s.OffIo .write ((s.pushCells .jsl (s.regs.pbr :: s.returnBytes)).map Prod.fst)) :
    Stores (.jsl l) s { s.regs with pc := offsetOf l, pbr := bankOf l, s := s.pushedS .jsl 3 }
      (s.pushCells .jsl (s.regs.pbr :: s.returnBytes)) := by
  obtain ⟨c, hc⟩ := State.pushAll_offIo h
  refine .of_upd (u := s.callLong l) ?_ rfl
  rw [State.callLong, State.push8_pushReturn_eq, hc]
  exact s.settle_endQuirk_upd .jsl (r := { s.regs with pc := offsetOf l, pbr := bankOf l }) rfl rfl _ _ _ _

/-- JSR through a pointer: PC from the pointer as memory stands once the return address is stored. -/
theorem State.callIndX_offIo {a : Word} (hw : s.OffIo .write ((s.pushCells .jsr s.returnBytes).map Prod.fst))
    (hr : s.OffIo .read (wordAddrs s.regs.pbr false (a + s.regs.x))) :
    ∃ c, s.callIndX a =
      s.upd
        { s.regs with
          pc := (s.upd s.regs s.clock (s.storeCells (s.pushCells .jsr s.returnBytes))).word s.regs.pbr false
            (a + s.regs.x)
          s := s.pushedS .jsr 2 } c
        (s.storeCells (s.pushCells .jsr s.returnBytes)) := by
  obtain ⟨c, hc⟩ : ∃ c, s.pushReturn (s.quirk .jsr) =
      s.upd { s.regs with s := stackMove (stackDown (s.confined .jsr)) 2 s.regs.s } c
        (s.storeCells (s.pushCells .jsr s.returnBytes)) := State.pushAll_offIo hw
  obtain ⟨c', hv⟩ := State.read16_offIo (hr.upd
    { s.regs with s := stackMove (stackDown (s.confined .jsr)) 2 s.regs.s } c
    (s.storeCells (s.pushCells .jsr s.returnBytes)))
  simp only [State.callIndX, State.targetIndX, hc, State.upd_regs, hv, State.upd_upd, State.upd_mem]
  exact s.settle_endQuirk_upd .jsr (r := { s.regs with
    pc := (s.upd s.regs s.clock (s.storeCells (s.pushCells .jsr s.returnBytes))).word s.regs.pbr false
      (a + s.regs.x) }) rfl rfl _ _ _ _

/-- The pointer that `State.callIndX` reads is still there when it ends. -/
theorem OnlyStores.callIndX {a : Word} (hw : s.OffIo .write ((s.pushCells .jsr s.returnBytes).map Prod.fst))
    (hr : s.OffIo .read (wordAddrs s.regs.pbr false (a + s.regs.x))) :
    ∃ t, exec (.jsrPcIndX a) s = .next t ∧ OnlyStores s t (s.pushCells .jsr s.returnBytes) ∧
      t.regs = { s.regs with pc := t.word s.regs.pbr false (a + s.regs.x), s := s.pushedS .jsr 2 } := by
  obtain ⟨c, hc⟩ := State.callIndX_offIo hw hr
  exact ⟨s.callIndX a, rfl, hc ▸ OnlyStores.upd s _ c _, hc ▸ rfl⟩

/-! ## Returns (46_flow.md R325, R326) -/

/-- RTS pulls PC and adds 1 (46_flow.md R325). -/
theorem Becomes.rts (h : s.OffIo .read (s.pullAddrs .rts 2)) :
    Becomes .rts s
      { s.regs with pc := joinWord (s.pulledByte .rts 2) (s.pulledByte .rts 1) + 1, s := s.pulledS .rts 2 } := by
  obtain ⟨c, hc⟩ := State.pull16_offIo h
  refine .of_upd (u := s.returnShort) ?_ rfl
  rw [State.returnShort, hc]
  exact s.settle_endQuirk_upd .rts
    (r := { s.regs with pc := joinWord (s.pulledByte .rts 2) (s.pulledByte .rts 1) + 1 }) rfl rfl _ _ _ _

/-- Three pulls, the last by itself. -/
theorem State.pull16_pull8_offIo {u : StackUser} (h : s.OffIo .read (s.pullAddrs u 3)) :
    ∃ c c', s.pull16 (s.quirk u) =
        (joinWord (s.pulledByte u 2) (s.pulledByte u 1),
          s.upd { s.regs with s := stackMove (stackUp (s.confined u)) 2 s.regs.s } c s.bus.mem) ∧
      (s.upd { s.regs with s := stackMove (stackUp (s.confined u)) 2 s.regs.s } c s.bus.mem).pull8 (s.quirk u) =
        (s.pulledByte u 3,
          s.upd { s.regs with s := stackMove (stackUp (s.confined u)) 3 s.regs.s } c' s.bus.mem) := by
  obtain ⟨c, hc⟩ := State.pull16_offIo (s := s) (full := s.quirk u)
    (h.left (bs := [joinAddr 0x00 (stackMove (stackUp (s.confined u)) 3 s.regs.s)]))
  obtain ⟨c', hb⟩ := State.pull8_offIo (full := s.quirk u) (h.tail.tail.upd
    { s.regs with s := stackMove (stackUp (s.confined u)) 2 s.regs.s } c s.bus.mem)
  rw [State.upd_peek] at hb
  exact ⟨c, c', hc, hb⟩

/-- RTL pulls PC and PBR and adds 1 to PC alone (46_flow.md R326). -/
theorem Becomes.rtl (h : s.OffIo .read (s.pullAddrs .rtl 3)) :
    Becomes .rtl s
      { s.regs with
        pc := joinWord (s.pulledByte .rtl 2) (s.pulledByte .rtl 1) + 1
        pbr := s.pulledByte .rtl 3
        s := s.pulledS .rtl 3 } := by
  obtain ⟨c, c', hv, hb⟩ := State.pull16_pull8_offIo h
  refine .of_upd (u := s.returnLong) ?_ rfl
  simp only [State.returnLong, hv, hb]
  exact s.settle_endQuirk_upd .rtl
    (r := { s.regs with
      pc := joinWord (s.pulledByte .rtl 2) (s.pulledByte .rtl 1) + 1, pbr := s.pulledByte .rtl 3 }) rfl rfl _ _ _ _

end

/-- Settles O51: each form stores, or pulls, what the lemma of its own says. -/
theorem callsAndReturns : Obligations.CallsAndReturns := by
  intro s a l ret back
  refine ⟨?jsr, ?jsrIndX, ?jsl, ?rts, ?rtl⟩
  case jsr => exact .call a
  case jsrIndX => exact OnlyStores.callIndX
  case jsl => exact .callLong l
  case rts => exact .rts
  case rtl => exact .rtl

end Sys2Proof.Machine
end

section
/-! SUPPORT. A return after a call (45_stack.md R283, 46_flow.md R323 to R327): the bytes a call pushes are found again. -/

namespace Sys2Proof.Machine

section
variable {s t : State}

/-- RTS after JSR, wherever the call jumped to. -/
theorem State.Balanced.rts_of_pushed (h : s.Balanced .jsr .rts 2) {pc : Word}
    (hregs : t.regs = { s.regs with pc := pc, s := s.pushedS .jsr 2 })
    (hstores : OnlyStores s t (s.pushCells .jsr s.returnBytes)) :
    ∃ u, exec .rts t = .next u ∧ u.regs = s.regs ∧ u.pins = s.pins := by
  have hbal : s.Balanced .jsr .rts s.returnBytes.length := h
  have ht : s.Pushed t .jsr s.returnBytes := ⟨by rw [hregs], by rw [hregs]; rfl, hstores⟩
  have hlow : t.pulledByte .rts 1 = lowByte (s.regs.pc - 1) := hbal.pulledByte ht (i := 0) Nat.two_pos
  have hhigh : t.pulledByte .rts 2 = highByte (s.regs.pc - 1) := hbal.pulledByte ht (i := 1) Nat.one_lt_two
  have hs : t.pulledS .rts 2 = s.regs.s := hbal.pulledS ht
  obtain ⟨u, hexec, hu, honly⟩ := Becomes.rts ((hstores.flat h.flat).offIo .read (t.pullAddrs .rts 2))
  refine ⟨u, hexec, ?_, honly.pins.trans hstores.pins⟩
  rw [hu, hhigh, hlow, hs, joinWord_parts, BitVec.sub_add_cancel, hregs]

/-- RTL after JSL. -/
theorem State.Balanced.rtl_of_pushed (h : s.Balanced .jsl .rtl 3) {pc : Word} {pbr : Byte}
    (hregs : t.regs = { s.regs with pc := pc, pbr := pbr, s := s.pushedS .jsl 3 })
    (hstores : OnlyStores s t (s.pushCells .jsl (s.regs.pbr :: s.returnBytes))) :
    ∃ u, exec .rtl t = .next u ∧ u.regs = s.regs ∧ u.pins = s.pins := by
  have hbal : s.Balanced .jsl .rtl (s.regs.pbr :: s.returnBytes).length := h
  have ht : s.Pushed t .jsl (s.regs.pbr :: s.returnBytes) := ⟨by rw [hregs], by rw [hregs]; rfl, hstores⟩
  have hlow : t.pulledByte .rtl 1 = lowByte (s.regs.pc - 1) := hbal.pulledByte ht (i := 0) (by simp)
  have hhigh : t.pulledByte .rtl 2 = highByte (s.regs.pc - 1) := hbal.pulledByte ht (i := 1) (by simp)
  have hbank : t.pulledByte .rtl 3 = s.regs.pbr := hbal.pulledByte ht (i := 2) (by simp)
  have hs : t.pulledS .rtl 3 = s.regs.s := hbal.pulledS ht
  obtain ⟨u, hexec, hu, honly⟩ := Becomes.rtl ((hstores.flat h.flat).offIo .read (t.pullAddrs .rtl 3))
  refine ⟨u, hexec, ?_, honly.pins.trans hstores.pins⟩
  rw [hu, hhigh, hlow, hbank, hs, joinWord_parts, BitVec.sub_add_cancel, hregs]

end

/-- Settles O52: each call completes and leaves its bytes on the stack, from which the return takes them. -/
theorem callThenReturn : Obligations.CallThenReturn := by
  intro s a l hflat hwf hok safe pair
  have hbal : ∀ {u u' n}, safe u u' n → n ≤ 256 → s.Balanced u u' n := fun h hn =>
    { flat := hflat, wf := hwf, paged := ((Regs.ok_iff _).mp hok).2
      push := h.imp id (Or.imp And.left id)
      pull := h.imp id (Or.imp And.right id)
      short := hn }
  refine ⟨fun h => ⟨?jsr, ?jsrIndX⟩, fun h => ?jsl⟩
  case jsr =>
    obtain ⟨t, hexec, hregs, hstores⟩ := Stores.call a (hflat.offIo .write _)
    exact ⟨t, ((hbal h (by decide)).rts_of_pushed hregs hstores).imp fun _ hu => ⟨hexec, hu⟩⟩
  case jsrIndX =>
    obtain ⟨t, hexec, hstores, hregs⟩ := OnlyStores.callIndX (a := a) (hflat.offIo .write _) (hflat.offIo .read _)
    exact ⟨t, ((hbal h (by decide)).rts_of_pushed hregs hstores).imp fun _ hu => ⟨hexec, hu⟩⟩
  case jsl =>
    obtain ⟨t, hexec, hregs, hstores⟩ := Stores.callLong l (hflat.offIo .write _)
    exact ⟨t, ((hbal h (by decide)).rtl_of_pushed hregs hstores).imp fun _ hu => ⟨hexec, hu⟩⟩

end Sys2Proof.Machine
end

section
/-! SUPPORT. Flag and mode instructions (47_flags_mode.md): each completes in every state, since it makes no access. -/

namespace Sys2Proof.Machine

/-! ## The shapes, as claims -/

/-- CLC, SEC, CLI, SEI, CLD, SED and CLV change P alone (47_flags_mode.md R349). -/
theorem Becomes.mapStatus {i : Instr} {s : State} {f : Status → Status} {p : Status}
    (hi : exec i s = .next (s.mapStatus f)) (hf : f s.regs.p = p) : Becomes i s { s.regs with p := p } :=
  hf ▸ .implied hi rfl

/-- REP and SEP change P as a whole byte, and what that leaves is normalized (47_flags_mode.md R347, R348). -/
theorem Becomes.mapStatusByte {i : Instr} {s : State} {f : Status → Status} {p : Status}
    (hi : exec i s = .next (s.mapStatusByte f)) (hf : f s.regs.p = p) :
    Becomes i s (Regs.normalize { s.regs with p := p }) :=
  hf ▸ .of_upd ⟨_, rfl⟩ hi

/-! ## The statements -/

/-- Settles O53: each flag instruction is `State.mapStatus` of its one bit; NOP keeps the registers, and WDM has no meaning but
its cycles. -/
theorem flagsAndNoOperations : Obligations.FlagsAndNoOperations := by
  intro s p
  refine ⟨?clc, ?sec, ?cli, ?sei, ?cld, ?sed, ?clv, ?nop, fun sig => ?wdm⟩
  case nop => exact .implied rfl rfl
  case wdm => exact .of_upd ⟨_, rfl⟩ rfl
  all_goals exact .mapStatus rfl rfl

/-- Settles O54: REP and SEP are `State.mapStatusByte` of `Status.clearMask` and `Status.setMask`, XCE is
`Regs.exchangeCE`, which normalizes too. -/
theorem modeInstructions : Obligations.ModeInstructions := by
  intro s mask
  refine ⟨?rep, ?sep, ?xce⟩
  case rep => exact .mapStatusByte rfl rfl
  case sep => exact .mapStatusByte rfl rfl
  case xce => exact .implied rfl rfl

end Sys2Proof.Machine
end

section
/-! SUPPORT. What a step ends in, case by case (60_exceptions.md R380), and that it always ends. -/

namespace Sys2Proof.Machine

section
variable {s : State}

/-- Case 1: the reset line is low. -/
theorem step_of_held (h : s.pins.resbIn = false) : step s = .next s.heldInReset := by simp [step, h]

/-- Case 2: the sequence is owed. -/
theorem step_of_owed (h : s.pins.resbIn = true) (hc : s.pins.coarse = .reset) : step s = .next s.resetSequence := by
  simp [step, h, hc]

/-- Case 3: STP has stopped the core. -/
theorem step_of_stopped (h : s.pins.resbIn = true) (hc : s.pins.coarse ≠ .reset) (he : s.pins.enabled = false) :
    step s = .next (s.internal 1) := by
  simp [step, h, hc, he]

/-- Case 4: WAI waits and nothing wakes the core. -/
theorem step_of_waiting (h : s.pins.resbIn = true) (hc : s.pins.coarse ≠ .reset) (he : s.pins.enabled = true)
    (hr : s.pins.readyOut = false) (hw : s.wakes = false) : step s = .next (s.internal 1) := by
  simp [step, h, hc, he, hr, hw]

/-- Cases 5 to 7 are reached with `ready_out` high. -/
theorem State.Running.step_eq (h : s.Running) : step s = s.awake.runCase := by
  obtain ⟨hreset, hcoarse, henabled, hready⟩ := h
  have hwaits : (!s.pins.readyOut && !s.wakes) = false := by simpa [or_iff_not_imp_left] using hready
  simp [step, hreset, hcoarse, henabled, hwaits]

end

/-! ## Totality -/

theorem exec_total (i : Instr) (s : State) : ∃ t, exec i s = .next t := by
  obtain ⟨t, _, ht, -⟩ := exec_confined i s
  exact ⟨t, ht⟩

theorem State.runCase_total (s : State) : ∃ t, s.runCase = .next t := by
  unfold State.runCase
  split
  · exact ⟨_, rfl⟩
  · split
    · exact ⟨_, rfl⟩
    · obtain ⟨t, ht⟩ := exec_total (s.fetchInstr.instr s.regs.p.m s.regs.p.x) s.fetchInstr.state
      exact ⟨_, State.runInstr_of_exec ht⟩

/-- Settles O5: every case of a step but the last is a state outright, and the last runs an instruction, which
completes. -/
theorem stepTotal : Obligations.StepTotal := by
  refine ⟨fun s => ?_, exec_total⟩
  unfold step
  split
  · exact ⟨_, rfl⟩
  · split
    · exact ⟨_, rfl⟩
    · split
      · exact ⟨_, rfl⟩
      · split
        · exact ⟨_, rfl⟩
        · exact s.awake.runCase_total

end Sys2Proof.Machine
end

section
/-! SUPPORT. Reset, WAI and STP (49_system.md R373, R374, 60_exceptions.md R411, R413, 70_reset_and_hazards.md R432 to
R436). -/

namespace Sys2Proof.Machine

/-! ## `ResetForce()` (70_reset_and_hazards.md R432) -/

@[simp] theorem Regs.resetForce_resetForce (r : Regs) : r.resetForce.resetForce = r.resetForce := by
  simp [Regs.resetForce]

@[simp] theorem State.resetForce_resetForce (s : State) : s.resetForce.resetForce = s.resetForce := by
  simp only [State.resetForce, Regs.resetForce_resetForce]

/-! ## A step held in reset (70_reset_and_hazards.md R436) -/

/-- The countdown moves the reset line and itself, no other pin. -/
theorem Pins.countHold_eq (p : Pins) :
    ∃ line hold, p.countHold = { p with resbIn := line, resetHold := hold } := by
  unfold Pins.countHold
  split
  · exact ⟨_, _, rfl⟩
  · split
    · exact ⟨_, _, rfl⟩
    · exact ⟨_, _, rfl⟩

/-- A held step imposes the forced values and counts one cycle, the countdown aside. -/
theorem State.heldInReset_eq (s : State) :
    ∃ line hold, s.heldInReset =
      { s.resetForce with
        pins := { s.resetForce.pins with coarse := .reset, resbIn := line, resetHold := hold }
        clock := s.clock.charge false 1 } := by
  obtain ⟨line, hold, h⟩ := Pins.countHold_eq { s.resetForce.pins with coarse := .reset }
  exact ⟨line, hold, by simp only [State.heldInReset, State.internal_pins, h]; rfl⟩

/-- Where the host drives the line nothing else releases it. -/
theorem State.heldInReset_of_driven {s : State} (h : s.pins.resetHold = none) :
    s.heldInReset =
      { s.resetForce with
        pins := { s.resetForce.pins with coarse := .reset }
        clock := s.clock.charge false 1 } := by
  have hp : Pins.countHold { s.resetForce.pins with coarse := .reset } = { s.resetForce.pins with coarse := .reset } := by
    simp only [Pins.countHold, State.resetForce, h]
  simp only [State.heldInReset, State.internal_pins, hp]
  rfl

/-- What a step with the reset line low leaves. -/
theorem step_held {s : State} (h : s.pins.resbIn = false) :
    ∃ t, step s = .next t ∧ t.regs = s.regs.resetForce ∧ t.bus = s.bus ∧ t.pins.readyOut = true ∧
      t.pins.enabled = true ∧ t.pins.nmiPending = false := by
  obtain ⟨line, hold, he⟩ := s.heldInReset_eq
  exact ⟨_, step_of_held h, by rw [he]; exact ⟨rfl, rfl, rfl, rfl, rfl⟩⟩

/-! ## The sequence (70_reset_and_hazards.md R433) -/

/-- The reset vector, as memory holds it. -/
def State.resetVector (s : State) : Word := s.word 0x00 false 0xFFFC

theorem State.resetVector_eq (s : State) :
    s.resetVector = joinWord (s.peek (joinAddr 0x00 0xFFFD)) (s.peek (joinAddr 0x00 0xFFFC)) := rfl

theorem State.resetVector_congr {s t : State} (hb : t.bus = s.bus) (hp : t.params = s.params) :
    t.resetVector = s.resetVector := by
  simp only [State.resetVector, State.word, State.peek_congr hb hp]

/-- What the sequence leaves: the forced values, PC the vector, nine cycles counted. -/
theorem State.resetSequence_offIo {s : State} (h : s.OffIo .read (wordAddrs 0x00 false 0xFFFC)) :
    ∃ c, c.cyclesSpent = s.clock.cyclesSpent + 9 ∧
      s.resetSequence =
        { s.resetForce with
          regs := { s.regs.resetForce with pc := s.resetVector }
          pins := { s.resetForce.pins with coarse := .execute }
          clock := c } := by
  have h7 : (s.resetForce.internal 7).OffIo .read (wordAddrs 0x00 false 0xFFFC) := h
  obtain ⟨c, hc⟩ := State.loadVector_offIo h7
  have he : s.resetSequence =
      { s.resetForce with
        regs := { s.regs.resetForce with pc := s.resetVector }
        pins := { s.resetForce.pins with coarse := .execute }
        clock := c } := by
    rw [State.resetSequence, hc, ← State.resetVector, State.resetVector_congr (s := s) rfl rfl]
    rfl
  exact ⟨c, by rw [← s.resetSequence_cycles, he], he⟩

/-! ## A whole reset (70_reset_and_hazards.md R434, R435) -/

/-- What a reset leaves, its clock being `c`. -/
def State.afterReset (s : State) (c : Clock) : State :=
  { s with
    regs := { s.regs.resetForce with pc := s.resetVector }
    pins :=
      { resbIn := true, irqbIn := s.pins.irqbIn, nmiPending := false, readyOut := true, enabled := true,
        coarse := .execute, resetHold := none }
    clock := c }

/-- One held step, the release, the sequence. -/
theorem resets_iff {s t : State} : Resets s t ↔ t = s.assertReset.heldInReset.releaseReset.resetSequence := by
  have hheld : step s.assertReset = .next s.assertReset.heldInReset := step_of_held rfl
  obtain ⟨line, hold, he⟩ := s.assertReset.heldInReset_eq
  have howed : step s.assertReset.heldInReset.releaseReset =
      .next s.assertReset.heldInReset.releaseReset.resetSequence := step_of_owed rfl (by rw [he]; rfl)
  constructor
  · rintro ⟨u, hu, ht⟩
    cases hheld.symm.trans hu
    cases howed.symm.trans ht
    rfl
  · rintro rfl
    exact ⟨_, hheld, howed⟩

theorem Resets.eq_afterReset {s t : State} (h : s.OffIo .read (wordAddrs 0x00 false 0xFFFC)) (hr : Resets s t) :
    ∃ c, c.cyclesSpent = s.clock.cyclesSpent + 10 ∧ t = s.afterReset c := by
  obtain ⟨line, hold, he⟩ := s.assertReset.heldInReset_eq
  have hu : s.assertReset.heldInReset.releaseReset.OffIo .read (wordAddrs 0x00 false 0xFFFC) := by
    rw [he]
    exact h
  obtain ⟨c, hc, hs⟩ := State.resetSequence_offIo hu
  refine ⟨c, by rw [hc, he]; rfl, ?_⟩
  rw [resets_iff.mp hr, hs, State.resetVector_congr (s := s) (by rw [he]; rfl) (by rw [he]; rfl), he]
  simp only [State.afterReset, State.releaseReset, State.resetForce, State.assertReset, Regs.resetForce_resetForce]

/-- A reset undoes nothing of an earlier one. -/
theorem State.afterReset_afterReset (s : State) (c c' : Clock) :
    (s.afterReset c).afterReset c' = s.afterReset c' := by
  have hv : (s.afterReset c).resetVector = s.resetVector := State.resetVector_congr rfl rfl
  rw [State.afterReset, hv]
  simp [State.afterReset, Regs.resetForce]

/-! ## The statements about reset -/

/-- Settles O9: `ResetForce()` is what its definition writes, and what it imposes it leaves alone. -/
theorem resetForceValues : Obligations.ResetForceValues :=
  fun s => ⟨rfl, s.resetForce_resetForce, step_held⟩

/-- Settles O10: the step is the sequence. -/
theorem resetSequenceRuns : Obligations.ResetSequenceRuns := by
  intro s h hr hc
  obtain ⟨c, hcycles, hs⟩ := State.resetSequence_offIo h
  exact ⟨c, hcycles, by rw [step_of_owed hr hc, hs, State.resetVector_eq]⟩

/-- Settles O11: the line being the host's, three steps are held and the fourth is the sequence; a reset leaves
`State.afterReset`, and so does a second one. -/
theorem resetProperties : Obligations.ResetProperties := by
  constructor
  · intro s h hr hhold
    have h1 := State.heldInReset_of_driven hhold
    have h2 : s.heldInReset.heldInReset = _ := State.heldInReset_of_driven (by rw [h1]; exact hhold)
    have h3 : s.heldInReset.heldInReset.heldInReset = _ := State.heldInReset_of_driven (by rw [h2, h1]; exact hhold)
    have hvector : s.heldInReset.heldInReset.heldInReset.releaseReset.resetVector = s.resetVector :=
      State.resetVector_congr (by rw [h3, h2, h1]; rfl) (by rw [h3, h2, h1]; rfl)
    obtain ⟨c, -, hs⟩ := State.resetSequence_offIo (s := s.heldInReset.heldInReset.heldInReset.releaseReset)
      (by rw [h3, h2, h1]; exact h)
    refine ⟨_, _, _, _, step_of_held hr, step_of_held (by rw [h1]; exact hr), step_of_held (by rw [h2, h1]; exact hr),
      step_of_owed rfl (by rw [h3]; rfl), ?_⟩
    rw [hs, hvector]
    exact ⟨s.resetVector_eq, rfl, rfl, rfl, rfl⟩
  · intro s h
    refine ⟨⟨_, resets_iff.mpr rfl⟩, fun t ht => ?_⟩
    obtain ⟨c, hc, rfl⟩ := ht.eq_afterReset h
    refine ⟨rfl, lowByte_zeroExt _, lowByte_zeroExt _, lowByte_joinWord _ _, rfl, rfl, rfl, rfl, rfl, rfl, hc,
      fun u hu => ?_⟩
    obtain ⟨c', -, rfl⟩ := hu.eq_afterReset (s := s.afterReset c) h
    rw [State.afterReset_afterReset]
    rfl

/-! ## WAI and STP (60_exceptions.md R411, R413) -/

/-- `WakeCondition()` as its rule words it. -/
theorem State.wakes_iff (s : State) :
    s.wakes = true ↔ s.pins.nmiPending = true ∨
      (s.pins.irqbIn = false ∧ (s.regs.p.i = false ∨ s.params.waiWakeOnMaskedIrq = true)) := by
  simp [State.wakes]

/-- Settles O7: where the core wakes, the step and that of the state with `ready_out` high are the same run of the awake
core; else it is an idle cycle. -/
theorem waiting : Obligations.Waiting := by
  refine ⟨fun s => ⟨_, rfl⟩, fun s hr hc he hready => ?_, fun s h => ?_⟩
  · split
    case isTrue hw =>
      have hs : s.Running := ⟨hr, hc, he, .inr (s.wakes_iff.mpr hw)⟩
      have hs' : State.Running { s with pins := { s.pins with readyOut := true } } := ⟨hr, hc, he, .inl rfl⟩
      rw [hs.step_eq, hs'.step_eq]
      rfl
    case isFalse hw =>
      exact ⟨_, step_of_waiting hr hc he hready (Bool.eq_false_iff.mpr (mt s.wakes_iff.mp hw))⟩
  · obtain ⟨t, ht, -, -, hready, -, -⟩ := step_held h
    exact ⟨t, ht, hready⟩

/-- Settles O8: a stopped step is an idle cycle, and a held one raises `enabled`. -/
theorem stopped : Obligations.Stopped := by
  refine ⟨fun s => ⟨_, rfl⟩, fun s hr hc he => ⟨_, step_of_stopped hr hc he⟩, fun s => ⟨Bool.or_true _, rfl⟩,
    fun s h => ?_⟩
  obtain ⟨t, ht, -, -, -, henabled, hnmi⟩ := step_held h
  exact ⟨t, ht, henabled, hnmi⟩

end Sys2Proof.Machine
end

section
/-! SUPPORT. Taking an exception (60_exceptions.md R384 to R392, 49_system.md R370, R371). -/

namespace Sys2Proof.Machine

/-! ## Entries, as claims -/

/-- An entry, its accesses off the I/O pages. -/
theorem Enters.interruptEntry {kind : EntryKind} {s : State} (h : s.EntryOffIo kind) :
    Enters kind s (s.interruptEntry kind) := by
  obtain ⟨hw, hr⟩ := h
  obtain ⟨c, hc⟩ := State.interruptEntry_offIo hw hr
  rw [hc]
  refine ⟨?_, OnlyStores.upd s _ c _⟩
  simp only [State.upd_regs, State.word]
  rfl

/-- The internal cycles that end an entry change nothing else. -/
theorem Enters.settle {kind : EntryKind} {s t : State} (h : Enters kind s t) (total fetched : Nat) (s0 : State) :
    Enters kind s (t.settle total fetched s0) :=
  ⟨h.1, ⟨h.2.pins, h.2.fetchPbr, h.2.fetchPc, h.2.trace, h.2.params, h.2.bankMap, h.2.readPages, h.2.writePages,
    h.2.ioCount, h.2.stored, h.2.others⟩⟩

/-- An entry looks at no pin. -/
theorem Enters.setPins {kind : EntryKind} {s t : State} (h : Enters kind s t) (p : Pins) :
    Enters kind { s with pins := p } { t with pins := p } :=
  ⟨h.1, ⟨rfl, h.2.fetchPbr, h.2.fetchPc, h.2.trace, h.2.params, h.2.bankMap, h.2.readPages, h.2.writePages,
    h.2.ioCount, h.2.stored, h.2.others⟩⟩

/-- An interrupt taken between instructions: the pins are set to `p`, the entry brought to its total, and the coarse state
left at Execute (60_exceptions.md R384, R385). -/
def State.takeEntry (s : State) (kind : EntryKind) (p : Pins) : State :=
  let s1 : State := { s with pins := p }
  let s2 := (s1.interruptEntry kind).settle (7 + s1.regs.nativeExtra) 0 s1
  { s2 with pins := { s2.pins with coarse := .execute } }

theorem State.takeNmi_eq (s : State) :
    s.takeNmi = s.takeEntry .nmi { s.pins with nmiPending := false, coarse := .nmi } := rfl

theorem State.takeIrq_eq (s : State) : s.takeIrq = s.takeEntry .irq { s.pins with coarse := .irq } := rfl

theorem State.takeEntry_cycles (s : State) (kind : EntryKind) (p : Pins) :
    (s.takeEntry kind p).clock.cyclesSpent = s.clock.cyclesSpent + 7 + s.regs.eExtra := by
  have h := State.interruptEntry_cycles { s with pins := p } kind
  rw [Nat.add_assoc] at h
  have ht := State.settle_total (fetched := 0) h (Nat.add_le_add_right (show 5 ≤ 7 by decide) _)
  exact ht.trans (Nat.add_assoc _ _ _).symm

/-- Where an entry's accesses go does not depend on the pins. -/
theorem State.entryOffIo_setPins (s : State) (p : Pins) (kind : EntryKind) :
    State.EntryOffIo { s with pins := p } kind ↔ s.EntryOffIo kind := by cases kind <;> exact Iff.rfl

theorem Enters.takeEntry {kind : EntryKind} {s : State} (h : s.EntryOffIo kind) (p : Pins) :
    Enters kind { s with pins := { p with coarse := .execute } } (s.takeEntry kind p) := by
  have he := (Enters.interruptEntry ((s.entryOffIo_setPins p kind).mpr h)).settle (7 + s.regs.nativeExtra) 0
    { s with pins := p }
  have hp : (((State.interruptEntry kind { s with pins := p }).settle (7 + s.regs.nativeExtra) 0
    { s with pins := p }).pins) = p := he.2.pins
  simp only [State.takeEntry, hp]
  exact he.setPins { p with coarse := .execute }

/-! ## The statements -/

/-- Settles O56: each is its entry, brought to its total. -/
theorem softwareInterrupts : Obligations.SoftwareInterrupts :=
  fun s _ => ⟨fun h => ⟨_, rfl, (Enters.interruptEntry h).settle _ 2 s⟩,
    fun h => ⟨_, rfl, (Enters.interruptEntry h).settle _ 2 s⟩⟩

/-- Settles O6: the order is that of `State.runCase`, and what it takes is `State.takeEntry`. -/
theorem requestPriority : Obligations.RequestPriority := by
  refine ⟨fun s h => ?reset, fun s h hs hn => ?nmi, fun s h hs hn hq hi => ?irq, fun s hs hn hq => ?instr⟩
  case reset =>
    obtain ⟨t, ht, hregs, hbus, -⟩ := step_held h
    exact ⟨t, ht, hregs, hbus⟩
  case nmi =>
    have ht : step s = .next s.awake.takeNmi := by simp [hs.step_eq, State.runCase, hn]
    exact ⟨_, ht, Enters.takeEntry (s := s.awake) ((s.entryOffIo_setPins _ _).mpr h) _, s.awake.takeEntry_cycles .nmi _⟩
  case irq =>
    have ht : step s = .next s.awake.takeIrq := by simp [hs.step_eq, State.runCase, hn, hq, hi]
    exact ⟨_, ht, Enters.takeEntry (s := s.awake) ((s.entryOffIo_setPins _ _).mpr h) _, s.awake.takeEntry_cycles .irq _⟩
  case instr => exact State.Fetching.step_eq ⟨hs, hn, hq⟩

/-! ## The pushed status byte (60_exceptions.md R392) -/

/-- The number of the break bit. -/
def breakIndex : BreakBit → Nat
  | .bit4 => 4
  | .bit5 => 5

theorem getLsbD_breakMask (b : BreakBit) {i : Nat} (hi : i < 8) :
    (breakMask b).getLsbD i = decide (i = breakIndex b) := by
  revert i
  cases b <;> decide

/-- IRQ and NMI clear the break bit in emulation mode, and no other. -/
theorem getLsbD_pushedStatus {kind : EntryKind} (hk : kind = .irq ∨ kind = .nmi) (b : BreakBit) (p : Status) {i : Nat}
    (hi : i < 8) :
    (pushedStatus b true p kind).getLsbD i = if i = breakIndex b then false else p.toByte.getLsbD i := by
  have hp : pushedStatus b true p kind = p.toByte &&& ~~~breakMask b := by rcases hk with rfl | rfl <;> rfl
  rw [hp, BitVec.getLsbD_and, BitVec.getLsbD_not, getLsbD_breakMask b hi]
  by_cases h : i = breakIndex b <;> simp [h, hi]

/-- M and X, which are 1 in emulation mode, are the two bits that may be the break bit. -/
theorem getLsbD_toByte_breakBit (b : BreakBit) {p : Status} (hm : p.m = true) (hx : p.x = true) :
    p.toByte.getLsbD (breakIndex b) = true := by
  have h := p.toByte_bits
  simp only [List.range, List.range.loop, List.map, List.cons.injEq] at h
  obtain ⟨-, -, -, -, h4, h5, -⟩ := h
  cases b with
  | bit4 => exact h4.trans hx
  | bit5 => exact h5.trans hm

/-- Settles O57: the vectors are read off `vectorOffset`, the bits off `pushedStatus`. -/
theorem entryTables : Obligations.EntryTables := by
  refine ⟨by decide, fun b p => ?_⟩
  intro k
  have hk : breakIndex b = k := by cases b <;> rfl
  rw [← hk]
  refine ⟨fun kind => rfl, fun kind h => ?_, fun kind h i hi => getLsbD_pushedStatus h b p hi⟩
  have hp : pushedStatus b true p kind = p.toByte := by rcases h with rfl | rfl <;> rfl
  rw [hp]
  exact ⟨rfl, getLsbD_toByte_breakBit b⟩

end Sys2Proof.Machine
end

section
/-! SUPPORT. Block moves away from the I/O gate (48_block_move.md). -/

namespace Sys2Proof.Machine

theorem Width.take_flag (narrow : Bool) (v : Word) :
    (if narrow then Width.w8 else .w16).take v = if narrow then zeroExt (lowByte v) else v := by
  cases narrow <;> rfl

/-- The count runs out where A was 0 (48_block_move.md R360). -/
theorem sub_one_eq_max_iff (a : Word) : a - 1 = 0xFFFF ↔ a = 0x0000 := by
  bv_omega

/-- One iteration, X and Y stepped by `delta`: the byte at `src:X` is stored at `dst:Y` (48_block_move.md R360). -/
theorem Stores.blockMove {i : Instr} {s : State} {dst src : Byte} {delta : Word}
    (hi : exec i s = .next (s.blockMove dst src delta)) (hr : s.OffIo .read [joinAddr src s.regs.x])
    (hw : s.OffIo .write [joinAddr dst s.regs.y]) :
    Stores i s
      { s.regs with
        x := s.regs.p.widthX.take (s.regs.x + delta)
        y := s.regs.p.widthX.take (s.regs.y + delta)
        a := s.regs.a - 1
        pc := if s.regs.a - 1 = 0xFFFF then s.regs.pc else s.regs.pc - 3
        dbr := if s.regs.a - 1 = 0xFFFF then dst else s.regs.dbr }
      [(joinAddr dst s.regs.y, s.peek (joinAddr src s.regs.x))] := by
  obtain ⟨c, hread⟩ := State.busRead_offIo hr.head .data
  obtain ⟨c', hwrite⟩ := State.busWrite_offIo (hw.upd s.regs c s.bus.mem).head .data (s.peek (joinAddr src s.regs.x))
  refine .of_upd ?_ hi
  simp only [State.upd_upd, State.upd_regs, State.upd_mem, State.upd_resolve] at hwrite
  simp only [State.blockMove, hread, hwrite, State.upd_mapRegs, State.settle, State.upd_internal]
  exact ⟨_, rfl⟩

/-- Settles O55: MVN steps X and Y by 1, MVP by -1. -/
theorem blockMoves : Obligations.BlockMoves := by
  intro s dst src hr hw
  simp only [← sub_one_eq_max_iff, ← Width.take_flag, sub_eq_add_neg s.regs.x 1,
    sub_eq_add_neg s.regs.y 1]
  exact ⟨.blockMove rfl hr hw, .blockMove rfl hr hw⟩

end Sys2Proof.Machine
end

section
/-! SUPPORT. RTI, and that it undoes an entry (49_system.md R372, 60_exceptions.md R395, R397). -/

namespace Sys2Proof.Machine

/-- What `Normalize()` makes of S shows in S alone. -/
theorem Regs.normalize_setS (r : Regs) (p : Status) (sp : Word) :
    Regs.normalize { r with s := sp, p := p } =
      { Regs.normalize { r with p := p } with s := if r.e then joinWord 0x01 (lowByte sp) else sp } := by
  simp only [Regs.normalize_eq]

/-- RTI leaves the registers of its stages. -/
theorem Becomes.rti {s : State} {r : Regs} (h : s.OffIo .read (s.returnAddrs (s.quirk .rti)))
    (hr : s.returned (s.quirk .rti) = r) : Becomes .rti s r := by
  obtain ⟨c, hc⟩ := State.interruptReturn_offIo h
  exact hr ▸ .of_upd ⟨_, by rw [hc, State.settle, State.upd_internal]⟩ rfl

section
variable {s : State}

/-- In native mode S moves over all 16 bits, four times, and `Normalize()` leaves it alone. -/
theorem State.returned_native (he : s.regs.e = false) :
    s.returned (s.quirk .rti) =
      { Regs.normalize { s.regs with p := Status.ofByte (s.pulledByte .rti 1) } with
        pc := joinWord (s.pulledByte .rti 3) (s.pulledByte .rti 2)
        pbr := s.pulledByte .rti 4
        s := s.pulledS .rti 4 } := by
  simp [State.returned, Regs.normalize_eq, State.pulledByte, State.pulledS, State.latched, State.confined, he,
    stackMove, stackUp]

/-- In emulation mode the pulls stay in page 0x01, where `Normalize()` and the latch find S. -/
theorem State.returned_emulation (he : s.regs.e = true) (hq : s.quirk .rti = false) :
    s.returned (s.quirk .rti) =
      { Regs.normalize { s.regs with p := Status.ofByte (s.pulledByte .rti 1) } with
        pc := joinWord (s.pulledByte .rti 3) (s.pulledByte .rti 2)
        s := s.pulledS .rti 3 } := by
  simp [State.returned, Regs.normalize_eq, State.pulledByte, State.pulledS, State.latched, State.confined, he, hq,
    stackMove, stackUp]

/-- RTI of the quirk set pulls over all 16 bits, but `Normalize()` puts S back into page 0x01 after P (log 15). -/
theorem State.returned_quirk (he : s.regs.e = true) (hq : s.quirk .rti = true) :
    let sp := joinWord 0x01 (lowByte (s.regs.s + 1))
    s.returned (s.quirk .rti) =
      { Regs.normalize { s.regs with p := Status.ofByte (s.pulledByte .rti 1) } with
        pc := joinWord (s.peek (joinAddr 0x00 (sp + 2))) (s.peek (joinAddr 0x00 (sp + 1)))
        s := joinWord 0x01 (lowByte (sp + 2)) } := by
  intro sp
  have h2 : sp + 2 = sp + 1 + 1 := (BitVec.add_assoc sp 1 1).symm
  rw [h2]
  simp [State.returned, Regs.normalize_eq, State.pulledByte, State.confined, he, hq, stackMove, stackUp, sp]

end

/-- Settles O59: a return only moves registers, and they end as its three modes say. -/
theorem returnFromInterrupt : Obligations.ReturnFromInterrupt :=
  fun _ h => ⟨fun he => .rti h (State.returned_native he), fun he hq => .rti h (State.returned_emulation he hq),
    fun he hq => .rti h (State.returned_quirk he hq)⟩

/-! ## After an entry -/

/-- Where IRQ and NMI clear the break bit, they clear no bit but M and X (60_exceptions.md R392). -/
theorem ofByte_breakCleared (b : BreakBit) (p : Status) :
    { Status.ofByte (p.toByte &&& ~~~breakMask b) with m := true, x := true } =
      ({ p with m := true, x := true } : Status) := by
  rcases p with ⟨c, z, i, d, x, m, v, n⟩
  cases b <;> revert c z i d x m v n <;> decide

/-- What an entry pushes as P differs from it at most in M and X, in emulation mode. -/
theorem ofByte_pushedStatus (b : BreakBit) (p : Status) (kind : EntryKind) :
    { Status.ofByte (pushedStatus b true p kind) with m := true, x := true } =
      ({ p with m := true, x := true } : Status) := by
  cases kind with
  | irq | nmi => exact ofByte_breakCleared b p
  | brk | cop => rw [show pushedStatus b true p _ = p.toByte from rfl, ofByte_toByte]

/-- Emulation mode makes M and X 1, whatever P held there (10_state.md R37). -/
theorem Regs.normalize_emulation {r : Regs} (he : r.e = true) (p : Status) :
    Regs.normalize { r with p := p } = Regs.normalize { r with p := { p with m := true, x := true } } := by
  simp [Regs.normalize_eq, he]

/-- The pushed byte, pulled and normalized, gives the registers back (60_exceptions.md R397). -/
theorem Regs.Ok.normalize_pushedStatus {r : Regs} (h : r.Ok) (b : BreakBit) (kind : EntryKind) :
    Regs.normalize { r with p := Status.ofByte (pushedStatus b r.e r.p kind) } = r := by
  by_cases he : r.e = true
  · have hpushed : pushedStatus b r.e r.p kind = pushedStatus b true r.p kind := by rw [he]
    rw [hpushed, Regs.normalize_emulation he, ofByte_pushedStatus, ← Regs.normalize_emulation he r.p]
    exact h.normalize_eq_self
  · have hpushed : pushedStatus b r.e r.p kind = r.p.toByte := by rw [Bool.eq_false_iff.mpr he]; rfl
    rw [hpushed, ofByte_toByte]
    exact h.normalize_eq_self

/-- What an entry writes beside P and S plays no part in `Normalize()`. -/
theorem Regs.normalize_entered (r : Regs) (p : Status) (sp pc : Word) (bank : Byte) :
    Regs.normalize { r with s := sp, p := p, pbr := bank, pc := pc } =
      { Regs.normalize { r with p := p } with
        s := if r.e then joinWord 0x01 (lowByte sp) else sp
        pbr := bank
        pc := pc } := by
  simp only [Regs.normalize_eq]

theorem Regs.Ok.normalize_entered {r : Regs} (h : r.Ok) (b : BreakBit) (kind : EntryKind) (sp pc : Word) (bank : Byte) :
    Regs.normalize
        { r with s := sp, p := Status.ofByte (pushedStatus b r.e r.p kind), pbr := bank, pc := pc } =
      { r with s := if r.e then joinWord 0x01 (lowByte sp) else sp, pbr := bank, pc := pc } := by
  rw [Regs.normalize_entered, h.normalize_pushedStatus]

/-- The stack accesses of an entry and of RTI obey one rule: in native mode every one does, and outside the quirk set. -/
def State.EvenEntry (s : State) (kind : EntryKind) : Prop :=
  s.regs.e = false ∨ (s.entryQuirk kind = false ∧ s.quirk .rti = false)

section
variable {s t : State} {kind : EntryKind}

theorem State.EvenEntry.confined (h : s.EvenEntry kind) : s.entryConfined kind = s.confined .rti := by
  rcases h with he | ⟨hk, hr⟩
  · simp [State.entryConfined, State.confined, he]
  · simp [State.entryConfined, State.confined, hk, hr]

theorem State.EvenEntry.frameS (h : s.EvenEntry kind) :
    s.frameS kind = s.pushedS .rti (s.frameBytes kind).length := by
  have hlatch : (s.regs.e && s.entryQuirk kind) = (s.regs.e && s.quirk .rti) := by
    rcases h with he | ⟨hk, hr⟩
    · simp [he]
    · simp [hk, hr]
  rw [State.frameS, h.confined, hlatch]
  rfl

/-- What RTI finds after an entry: the frame, as if RTI itself had pushed it. -/
theorem State.EvenEntry.pushed (h : s.EvenEntry kind) (ht : Enters kind s t) :
    s.Pushed t .rti (s.frameBytes kind) where
  e := by rw [ht.1]
  sp := by rw [ht.1, ← h.frameS]
  stores := by
    have hcells : s.pushCells .rti (s.frameBytes kind) = s.frameCells kind := by
      rw [State.frameCells, h.confined]
      rfl
    exact hcells ▸ ht.2

theorem State.EvenEntry.balanced (h : s.EvenEntry kind) (hflat : s.Flat) (hwf : s.bus.mem.wf = true)
    (hok : s.regs.Ok) : s.Balanced .rti .rti (s.frameBytes kind).length where
  flat := hflat
  wf := hwf
  paged := ((Regs.ok_iff _).mp hok).2
  push := h.imp id fun h => .inl h.2
  pull := h.imp id fun h => .inl h.2
  short := by
    rw [State.frameBytes]
    cases s.regs.e <;> simp

/-- With the pushed byte back in P, normalized, only S, PBR and PC still show that there was an entry. -/
theorem Regs.Ok.normalize_afterEntry (hok : s.regs.Ok) (ht : Enters kind s t) :
    ∃ sp pc,
      Regs.normalize { t.regs with p := Status.ofByte (pushedStatus s.params.breakBit s.regs.e s.regs.p kind) } =
        { s.regs with s := sp, pbr := 0x00, pc := pc } :=
  ⟨_, _, by rw [ht.1]; exact hok.normalize_entered _ _ _ _ _⟩

/-- RTI after an entry in native mode pulls PBR too (60_exceptions.md R395). -/
theorem Enters.rti_native (ht : Enters kind s t) (hbal : s.Balanced .rti .rti (s.frameBytes kind).length)
    (hpush : s.Pushed t .rti (s.frameBytes kind)) (hok : s.regs.Ok) (he : s.regs.e = false) :
    ∃ u, exec .rti t = .next u ∧ u.regs = s.regs := by
  have hframe : s.frameBytes kind = [s.regs.pbr, highByte s.regs.pc, lowByte s.regs.pc,
      pushedStatus s.params.breakBit s.regs.e s.regs.p kind] := by simp [State.frameBytes, he]
  rw [hframe] at hbal hpush
  have hp : t.pulledByte .rti 1 = pushedStatus s.params.breakBit s.regs.e s.regs.p kind :=
    hbal.pulledByte hpush (i := 0) (by simp)
  have hlow : t.pulledByte .rti 2 = lowByte s.regs.pc := hbal.pulledByte hpush (i := 1) (by simp)
  have hhigh : t.pulledByte .rti 3 = highByte s.regs.pc := hbal.pulledByte hpush (i := 2) (by simp)
  have hbank : t.pulledByte .rti 4 = s.regs.pbr := hbal.pulledByte hpush (i := 3) (by simp)
  have hs : t.pulledS .rti 4 = s.regs.s := hbal.pulledS hpush
  obtain ⟨u, hexec, hu, -⟩ := (returnFromInterrupt t ((ht.2.flat hbal.flat).offIo _ _)).1 (hpush.e.trans he)
  refine ⟨u, hexec, ?_⟩
  obtain ⟨sp, pc, hn⟩ := hok.normalize_afterEntry ht
  rw [hu, hp, hlow, hhigh, hbank, hs, joinWord_parts, hn]

/-- RTI after an entry in emulation mode finds no PBR in the frame, and leaves the 0 of the entry
(60_exceptions.md R397). -/
theorem Enters.rti_emulation (ht : Enters kind s t) (hbal : s.Balanced .rti .rti (s.frameBytes kind).length)
    (hpush : s.Pushed t .rti (s.frameBytes kind)) (hok : s.regs.Ok) (he : s.regs.e = true)
    (hq : s.quirk .rti = false) :
    ∃ u, exec .rti t = .next u ∧ u.regs = { s.regs with pbr := 0x00 } := by
  have hframe : s.frameBytes kind = [highByte s.regs.pc, lowByte s.regs.pc,
      pushedStatus s.params.breakBit s.regs.e s.regs.p kind] := by simp [State.frameBytes, he]
  rw [hframe] at hbal hpush
  have hp : t.pulledByte .rti 1 = pushedStatus s.params.breakBit s.regs.e s.regs.p kind :=
    hbal.pulledByte hpush (i := 0) (by simp)
  have hlow : t.pulledByte .rti 2 = lowByte s.regs.pc := hbal.pulledByte hpush (i := 1) (by simp)
  have hhigh : t.pulledByte .rti 3 = highByte s.regs.pc := hbal.pulledByte hpush (i := 2) (by simp)
  have hs : t.pulledS .rti 3 = s.regs.s := hbal.pulledS hpush
  have hquirk : t.quirk .rti = false := by rw [State.quirk, ht.2.params]; exact hq
  obtain ⟨u, hexec, hu, -⟩ :=
    (returnFromInterrupt t ((ht.2.flat hbal.flat).offIo _ _)).2.1 (hpush.e.trans he) hquirk
  refine ⟨u, hexec, ?_⟩
  obtain ⟨sp, pc, hn⟩ := hok.normalize_afterEntry ht
  rw [hu, hp, hlow, hhigh, hs, joinWord_parts, hn]

end

/-- Settles O60: the frame is found again by RTI, and what it pushed as P, normalized, is P. -/
theorem entryThenReturn : Obligations.EntryThenReturn := by
  intro s kind hflat hwf hok heven
  have ht : Enters kind s (s.interruptEntry kind) := .interruptEntry ⟨hflat.offIo _ _, hflat.offIo _ _⟩
  have hbal : s.Balanced .rti .rti (s.frameBytes kind).length := State.EvenEntry.balanced heven hflat hwf hok
  have hpush := State.EvenEntry.pushed heven ht
  cases he : s.regs.e with
  | false => exact ht.rti_native hbal hpush hok he
  | true => exact ht.rti_emulation hbal hpush hok he (heven.resolve_left (by simp [he])).2

end Sys2Proof.Machine
end

section
/-! SUPPORT. The cycle table (70_reset_and_hazards.md R463 to R469): an instruction ends with the total of its row, its
fetch included, I/O pages or not. -/

namespace Sys2Proof.Machine

/-! ## The penalties, as the table names them -/

theorem Status.extra_widthM (p : Status) : p.widthM.extra = p.mExtra := by
  unfold Status.widthM Status.mExtra
  split <;> rfl

theorem Status.extra_widthX (p : Status) : p.widthX.extra = p.xExtra := by
  unfold Status.widthX Status.xExtra
  split <;> rfl

theorem Width.bytes_eq_extra (w : Width) : w.bytes = 1 + w.extra := by cases w <;> rfl

theorem State.decimalCycles_eq (s : State) : s.decimalCycles = s.decimalExtra := by
  simp [State.decimalCycles, State.decimalExtra]

/-- The `p` of the modes that pay it, for a read. -/
def State.indexPenalty (s : State) : Mode → Nat
  | .absX a => s.regs.indexExtra a s.regs.x
  | .absY a => s.regs.indexExtra a s.regs.y
  | .dpIndY b => s.regs.indexExtra (s.read16DpPtr (s.regs.dpAddr b 0)).1 s.regs.y
  | .abs _ | .long _ | .longX _ | .dp _ | .dpX _ | .dpY _ | .dpInd _ | .dpXInd _ | .dpIndLong _ | .dpIndLongY _ | .sr _
  | .srIndY _ => 0

/-- The `w` of the modes that pay it. -/
def Regs.pagePenalty (r : Regs) (md : Mode) : Nat := if md.direct then r.dlExtra else 0

/-- Whether an indexed address pays `p` (70_reset_and_hazards.md R469). -/
theorem eaIndexed_cross (r : Regs) (bank : Byte) (base index : Word) :
    (if (eaIndexed r.p.x (joinAddr bank base) index).cross then 1 else 0) = r.indexExtra base index := by
  simp [eaIndexed, Regs.indexExtra]

theorem State.indexPenalty_eq (s : State) (md : Mode) :
    (if md.paysIndex && (s.effective md).1.cross then 1 else 0) = s.indexPenalty md := by
  cases md with
  | absX | absY | dpIndY => exact eaIndexed_cross s.regs _ _ _
  | abs | long | longX | dp | dpX | dpY | dpInd | dpXInd | dpIndLong | dpIndLongY | sr | srIndY => rfl

theorem State.readCycles_eq (s : State) (md : Mode) (w : Width) :
    s.regs.readCycles md w (s.effective md).1 = md.cycles + w.extra + s.regs.pagePenalty md + s.indexPenalty md := by
  rw [Regs.readCycles, s.indexPenalty_eq, Regs.modeCycles, Nat.add_right_comm md.cycles]
  rfl

theorem Mode.length_lt_cycles (md : Mode) : md.length < md.cycles := by
  cases md <;> simp [Mode.length, Mode.cycles]

/-! ## The totals of the other shapes -/

theorem State.branch_total (s : State) (cond : Bool) (d : Byte) :
    (s.branch cond d).clock.cyclesSpent + 2 = s.clock.cyclesSpent + (2 + s.regs.takenExtra cond d) := by
  cases cond with
  | false => exact State.settle_total (bus := 0) rfl (Nat.le_refl 2)
  | true =>
    have hn : 3 + s.regs.branchPenalty (s.regs.pc + signExt d) = 2 + s.regs.takenExtra true d := by
      simp only [Regs.branchPenalty, Regs.takenExtra, Bool.and_eq_true, bne_iff_ne, if_true]
      split <;> rfl
    rw [← hn]
    exact State.settle_total (bus := 0) rfl (by omega)

section
variable {s : State}

theorem State.jump_total {n bus : Nat} {t : Word × State} (ht : t.2.clock.cyclesSpent = s.clock.cyclesSpent + bus)
    (h : bus + 3 ≤ n) : (s.jump n t).clock.cyclesSpent + 3 = s.clock.cyclesSpent + n :=
  State.settle_total ht h

theorem State.jumpLong_total {n len bus : Nat} {t : Addr × State}
    (ht : t.2.clock.cyclesSpent = s.clock.cyclesSpent + bus) (h : bus + len ≤ n) :
    (s.jumpLong n len t).clock.cyclesSpent + len = s.clock.cyclesSpent + n :=
  State.settle_total ht h

variable (s)

theorem State.call_total (a : Word) : (s.call a).clock.cyclesSpent + 3 = s.clock.cyclesSpent + 6 :=
  State.settle_total (bus := 2)
    (by simp only [State.endQuirk_cycles, State.mapRegs_clock, State.pushReturn, State.push16_cycles]) (by decide)

theorem State.callIndX_total (a : Word) : (s.callIndX a).clock.cyclesSpent + 3 = s.clock.cyclesSpent + 8 :=
  State.settle_total (bus := 4)
    (by simp only [State.endQuirk_cycles, State.mapRegs_clock, State.targetIndX, State.read16_cycles, State.pushReturn,
      State.push16_cycles]) (by decide)

theorem State.callLong_total (a : Addr) : (s.callLong a).clock.cyclesSpent + 4 = s.clock.cyclesSpent + 8 :=
  State.settle_total (bus := 3)
    (by simp only [State.endQuirk_cycles, State.mapRegs_clock, State.pushReturn, State.push16_cycles,
      State.push8_cycles]) (by decide)

theorem State.returnShort_total : s.returnShort.clock.cyclesSpent + 1 = s.clock.cyclesSpent + 6 :=
  State.settle_total (bus := 2)
    (by simp only [State.endQuirk_cycles, State.mapRegs_clock, State.pull16_cycles]) (by decide)

theorem State.returnLong_total : s.returnLong.clock.cyclesSpent + 1 = s.clock.cyclesSpent + 6 :=
  State.settle_total (bus := 3)
    (by simp only [State.endQuirk_cycles, State.mapRegs_clock, State.pull8_cycles, State.pull16_cycles]) (by decide)

theorem State.pushPointer_total (b : Byte) :
    (s.pushPointer b).clock.cyclesSpent + 2 = s.clock.cyclesSpent + (6 + s.regs.dlExtra) :=
  State.settle_total (bus := 4)
    (by simp only [State.endQuirk_cycles, State.pushAt_cycles, State.read16Bank0, State.read16_cycles, Width.bytes])
    (Nat.le_add_right 6 _)

theorem State.blockMove_total (dst src : Byte) (delta : Word) :
    (s.blockMove dst src delta).clock.cyclesSpent + 3 = s.clock.cyclesSpent + 7 :=
  State.settle_total (bus := 2)
    (by simp only [State.mapRegs_clock, State.busWrite_cycles, State.busRead_cycles]) (by decide)

/-- BRK and COP. -/
theorem State.entry_total (kind : EntryKind) :
    ((s.interruptEntry kind).settle (7 + s.regs.nativeExtra) 2 s).clock.cyclesSpent + 2 =
      s.clock.cyclesSpent + (7 + s.regs.eExtra) :=
  State.settle_total ((s.interruptEntry_cycles kind).trans (Nat.add_assoc _ _ _)) (by omega)

theorem State.return_total (full : Bool) :
    ((s.interruptReturn full).settle (6 + s.regs.nativeExtra) 1 s).clock.cyclesSpent + 1 =
      s.clock.cyclesSpent + (6 + s.regs.eExtra) :=
  State.settle_total ((s.interruptReturn_cycles full).trans (Nat.add_assoc _ _ _)) (by omega)

end

/-! ## An instruction and its row -/

/-- The bytes of `i` at the widths of `s`, each one cycle of its fetch (30_encoding.md R112). -/
abbrev encodedLength (s : State) (i : Instr) : Nat := (encode s.regs.p.m s.regs.p.x i).length

/-- `i` completes at `s`, and the cycles since then with those of its bytes are its row of the table. -/
def Costs (i : Instr) (s : State) : Prop :=
  ∃ t, exec i s = .next t ∧
    t.clock.cyclesSpent + encodedLength s i = s.clock.cyclesSpent + Instr.cycles s i

section
variable {i : Instr} {s : State}

/-- An instruction whose total, counted with its `len` bytes, is known. -/
theorem Costs.of_total {t : State} {len n : Nat} (hi : exec i s = .next t)
    (hl : encodedLength s i = len) (hn : Instr.cycles s i = n)
    (ht : t.clock.cyclesSpent + len = s.clock.cyclesSpent + n) : Costs i s :=
  ⟨t, hi, by rw [hl, hn, ht]⟩

/-- A read through memory: base, width, `w`, `p`, and `d` where the instruction adds or subtracts. -/
theorem Costs.readOperand {md : Mode} {w : Width} {n d x : Nat} {f : Word → Regs → Regs}
    (hi : exec i s = .next (s.readOperand md w n f)) (hl : encodedLength s i = md.length)
    (hx : w.extra = x) (hd : n = d)
    (hn : Instr.cycles s i = md.cycles + x + s.regs.pagePenalty md + s.indexPenalty md + d) : Costs i s := by
  subst hx hd
  exact .of_total hi hl (by rw [hn, ← s.readCycles_eq]) (s.readOperand_total md w n f)

/-- ADC and SBC pay `d`. -/
theorem Costs.sum {md : Mode} {op : AluOp} (hi : exec i s = .next (s.alu op s.decimalCycles md))
    (hl : encodedLength s i = md.length)
    (hn : Instr.cycles s i =
      md.cycles + s.regs.p.mExtra + s.regs.pagePenalty md + s.indexPenalty md + s.decimalExtra) : Costs i s :=
  .readOperand hi hl s.regs.p.extra_widthM s.decimalCycles_eq hn

theorem Costs.immediate {imm : Word} {w : Width} {n d x : Nat} {f : Word → Regs → Regs}
    (hi : exec i s = .next (s.immediate imm w n f)) (hl : encodedLength s i = 1 + w.bytes)
    (hx : w.extra = x) (hd : n = d) (hn : Instr.cycles s i = 2 + x + d) : Costs i s := by
  subst hx hd
  exact .of_total hi hl (by rw [hn, w.bytes_eq_extra, ← Nat.add_assoc 1]) (s.immediate_total imm w n f)

/-- A store pays for its index where a read may. -/
theorem Costs.store {md : Mode} {w : Width} {v : Word} {x : Nat} (hi : exec i s = .next (s.store md w v))
    (hl : encodedLength s i = md.length) (hx : w.extra = x)
    (hn : Instr.cycles s i = md.cycles + (if md.paysIndex then 1 else 0) + x + s.regs.pagePenalty md) : Costs i s := by
  subst hx
  have hs : s.regs.storeCycles md w =
      md.cycles + (if md.paysIndex then 1 else 0) + w.extra + s.regs.pagePenalty md := by
    have hw : s.regs.directPenalty = s.regs.dlExtra := rfl
    rw [Regs.storeCycles, Regs.modeCycles, hw, ← Regs.pagePenalty]
    omega
  exact .of_total hi hl (hn.trans hs.symm) (s.store_total md w v)

/-- A read-modify-write moves its datum twice. -/
theorem Costs.modify {md : Mode} {op : RmwOp} (hi : exec i s = .next (s.modify md op))
    (hl : encodedLength s i = md.length) (hp : md.pointerBytes = 0)
    (hn : Instr.cycles s i =
      md.cycles + 2 + (if md.paysIndex then 1 else 0) + 2 * s.regs.p.mExtra + s.regs.pagePenalty md) : Costs i s := by
  have hs : s.regs.modifyCycles md s.regs.p.widthM =
      md.cycles + 2 + (if md.paysIndex then 1 else 0) + 2 * s.regs.p.mExtra + s.regs.pagePenalty md := by
    have hw : s.regs.directPenalty = s.regs.dlExtra := rfl
    rw [Regs.modifyCycles, Regs.modeCycles, s.regs.p.extra_widthM, hw, ← Regs.pagePenalty]
    omega
  exact .of_total hi hl (hn.trans hs.symm) (s.modify_total md op hp md.length_lt_cycles)

theorem Costs.implied {n : Nat} {f : Regs → Regs} (hi : exec i s = .next (s.implied n f))
    (hl : encodedLength s i = 1) (hn : Instr.cycles s i = n) (h1 : 1 ≤ n) : Costs i s :=
  .of_total hi hl hn (s.implied_total n f h1)

theorem Costs.pushing {n len : Nat} {u : StackUser} {w : Width} {v : Word}
    (hi : exec i s = .next (s.pushing n len u w v)) (hl : encodedLength s i = len)
    (hn : Instr.cycles s i = n) (h : w.bytes + len ≤ n) : Costs i s :=
  .of_total hi hl hn (s.pushing_total n len u w v h)

theorem Costs.pulling {n : Nat} {u : StackUser} {w : Width} {f : Word → Regs → Regs}
    (hi : exec i s = .next (s.pulling n u w f)) (hl : encodedLength s i = 1)
    (hn : Instr.cycles s i = n) (h : w.bytes + 1 ≤ n) : Costs i s :=
  .of_total hi hl hn (s.pulling_total n u w f h)

theorem Costs.branch {cond : Bool} {d : Byte} (hi : exec i s = .next (s.branch cond d))
    (hl : encodedLength s i = 2) (hn : Instr.cycles s i = 2 + s.regs.takenExtra cond d) : Costs i s :=
  .of_total hi hl hn (s.branch_total cond d)

/-- An instruction that makes no access after its fetch and is no more than cycles besides. -/
theorem Costs.settle {u : State} {n len : Nat} (hi : exec i s = .next (u.settle n len s))
    (hl : encodedLength s i = len) (hn : Instr.cycles s i = n)
    (hu : u.clock.cyclesSpent = s.clock.cyclesSpent) (h : len ≤ n) : Costs i s :=
  .of_total hi hl hn (State.settle_total (bus := 0) hu (by omega))

end

/-- The bytes of an immediate at its width. -/
theorem Status.length_encodeImm_m (p : Status) (op : Byte) (imm : Word) :
    (encodeImm p.m op imm).length = 1 + p.widthM.bytes := by
  unfold encodeImm Status.widthM
  split <;> rfl

theorem Status.length_encodeImm_x (p : Status) (op : Byte) (imm : Word) :
    (encodeImm p.x op imm).length = 1 + p.widthX.bytes := by
  unfold encodeImm Status.widthX
  split <;> rfl

/-- Every instruction keeps to its row: the forms of one shape by the lemma of their shape. -/
theorem exec_costs (i : Instr) (s : State) : Costs i s := by
  have hm := s.regs.p.extra_widthM
  have hx := s.regs.p.extra_widthX
  have hd := s.decimalCycles_eq
  cases i with
  | ldaDpXInd | ldaSr | ldaDp | ldaDpIndLong | ldaAbs | ldaLong | ldaDpIndY | ldaDpInd | ldaSrIndY | ldaDpX
  | ldaDpIndLongY | ldaAbsY | ldaAbsX | ldaLongX | cmpDpXInd | cmpSr | cmpDp | cmpDpIndLong | cmpAbs | cmpLong
  | cmpDpIndY | cmpDpInd | cmpSrIndY | cmpDpX | cmpDpIndLongY | cmpAbsY | cmpAbsX | cmpLongX | bitDp | bitAbs | bitDpX
  | bitAbsX | andDpXInd | andSr | andDp | andDpIndLong | andAbs | andLong | andDpIndY | andDpInd | andSrIndY | andDpX
  | andDpIndLongY | andAbsY | andAbsX | andLongX | oraDpXInd | oraSr | oraDp | oraDpIndLong | oraAbs | oraLong
  | oraDpIndY | oraDpInd | oraSrIndY | oraDpX | oraDpIndLongY | oraAbsY | oraAbsX | oraLongX | eorDpXInd | eorSr
  | eorDp | eorDpIndLong | eorAbs | eorLong | eorDpIndY | eorDpInd | eorSrIndY | eorDpX | eorDpIndLongY | eorAbsY
  | eorAbsX | eorLongX =>
    exact .readOperand rfl rfl hm rfl rfl
  | ldxDp | ldxAbs | ldxDpY | ldxAbsY | ldyDp | ldyAbs | ldyDpX | ldyAbsX | cpxDp | cpxAbs | cpyDp | cpyAbs =>
    exact .readOperand rfl rfl hx rfl rfl
  | adcDpXInd | adcSr | adcDp | adcDpIndLong | adcAbs | adcLong | adcDpIndY | adcDpInd | adcSrIndY | adcDpX
  | adcDpIndLongY | adcAbsY | adcAbsX | adcLongX | sbcDpXInd | sbcSr | sbcDp | sbcDpIndLong | sbcAbs | sbcLong
  | sbcDpIndY | sbcDpInd | sbcSrIndY | sbcDpX | sbcDpIndLongY | sbcAbsY | sbcAbsX | sbcLongX =>
    exact .sum rfl rfl rfl
  | ldaImmM imm | cmpImmM imm | bitImmM imm | andImmM imm | oraImmM imm | eorImmM imm =>
    exact .immediate rfl (s.regs.p.length_encodeImm_m _ imm) hm rfl rfl
  | ldxImmX imm | ldyImmX imm | cpxImmX imm | cpyImmX imm =>
    exact .immediate rfl (s.regs.p.length_encodeImm_x _ imm) hx rfl rfl
  | adcImmM imm | sbcImmM imm => exact .immediate rfl (s.regs.p.length_encodeImm_m _ imm) hm hd rfl
  | staDpXInd | staSr | staDp | staDpIndLong | staAbs | staLong | staDpIndY | staDpInd | staSrIndY | staDpX
  | staDpIndLongY | staAbsY | staAbsX | staLongX | stzDp | stzDpX | stzAbs | stzAbsX =>
    exact .store rfl rfl hm rfl
  | stxDp | stxAbs | stxDpY | styDp | styAbs | styDpX => exact .store rfl rfl hx rfl
  | aslDp | aslAbs | aslDpX | aslAbsX | lsrDp | lsrAbs | lsrDpX | lsrAbsX | rolDp | rolAbs | rolDpX | rolAbsX | rorDp
  | rorAbs | rorDpX | rorAbsX | incDp | incAbs | incDpX | incAbsX | decDp | decAbs | decDpX | decAbsX | tsbDp | tsbAbs
  | trbDp | trbAbs =>
    exact .modify rfl rfl rfl rfl
  | aslAcc | lsrAcc | rolAcc | rorAcc | incAcc | decAcc | inx | iny | dex | dey | clc | sec | cli | sei | cld | sed
  | clv | nop | xce | tax | tay | txa | tya | tsx | txs | txy | tyx | tcd | tdc | tcs | tsc | xba =>
    exact .implied rfl rfl rfl (by decide)
  | rep | sep | brl | wdm | wai | stp => exact .settle rfl rfl rfl rfl (by decide)
  | bcc | bcs | beq | bne | bmi | bpl | bvc | bvs | bra => exact .branch rfl rfl rfl
  | jmpPcAbs => exact .of_total rfl rfl rfl (State.jump_total (bus := 0) rfl (by decide))
  | jmpPcInd => exact .of_total rfl rfl rfl (State.jump_total (s.read16_cycles _ _ _) (by decide))
  | jmpPcIndX => exact .of_total rfl rfl rfl (State.jump_total (s.read16_cycles _ _ _) (by decide))
  | jmlPcLong => exact .of_total rfl rfl rfl (State.jumpLong_total (bus := 0) rfl (by decide))
  | jmlPcIndLong => exact .of_total rfl rfl rfl (State.jumpLong_total (s.read24_cycles _) (by decide))
  | jsrPcAbs a => exact .of_total rfl rfl rfl (s.call_total a)
  | jsrPcIndX a => exact .of_total rfl rfl rfl (s.callIndX_total a)
  | jsl l => exact .of_total rfl rfl rfl (s.callLong_total l)
  | rts => exact .of_total rfl rfl rfl s.returnShort_total
  | rtl => exact .of_total rfl rfl rfl s.returnLong_total
  | mvn dst src | mvp dst src => exact .of_total rfl rfl rfl (s.blockMove_total dst src _)
  | brk | cop => exact .of_total rfl rfl rfl (s.entry_total _)
  | rti => exact .of_total rfl rfl rfl (s.return_total _)
  | pha => exact .pushing rfl rfl (hm ▸ rfl) (by rw [Width.bytes_eq_extra]; omega)
  | phx | phy => exact .pushing rfl rfl (hx ▸ rfl) (by rw [Width.bytes_eq_extra]; omega)
  | php | phb | phd | phk | pea | per => exact .pushing rfl rfl rfl (by decide)
  | pei b => exact .of_total rfl rfl rfl (s.pushPointer_total b)
  | pla => exact .pulling rfl rfl (hm ▸ rfl) (by rw [Width.bytes_eq_extra]; omega)
  | plx | ply => exact .pulling rfl rfl (hx ▸ rfl) (by rw [Width.bytes_eq_extra]; omega)
  | plp | plb | pld => exact .pulling rfl rfl rfl (by decide)

/-! ## The step -/

/-- Settles O16: the fetch has charged a cycle for each byte of the instruction, and the instruction ends with its row. -/
theorem cycleAccuracy : Obligations.CycleAccuracy := by
  intro s t hf hs f n
  obtain ⟨u, hu, rfl⟩ := State.runInstr_next (hf.step_eq.symm.trans hs)
  obtain ⟨u', hu', hcost⟩ := exec_costs (f.instr s.regs.p.m s.regs.p.x) f.state
  cases hu.symm.trans hu'
  have hregs : f.state.regs.p = s.regs.p := by rw [s.awake.fetchInstr_regs]; rfl
  have henc : encode s.regs.p.m s.regs.p.x (f.instr s.regs.p.m s.regs.p.x) = f.opcode :: f.operands :=
    ((opcodeShape_encodes _ _ f.opcode).read s.awake.fetchInstr_length).2
  have hfetch : f.state.clock.cyclesSpent = s.clock.cyclesSpent + (f.operands.length + 1) :=
    s.awake.fetchInstr_cycles
  have hcycles : u.clock.cyclesSpent = s.clock.cyclesSpent + n := by
    rw [encodedLength, hregs, henc, List.length_cons, hfetch] at hcost
    omega
  refine ⟨hcycles, ?_⟩
  rw [State.recordTrace, Option.map_some, hcycles, State.awake_clock, Nat.add_sub_cancel_left]

end Sys2Proof.Machine
end
